-- ==== Sys2Proof/Word.lean ====
section
/-! DEFINITION. The word and byte types (spec 00_scope.md R7, R8). -/

namespace Sys2Proof

/-- WORD: the width of every register, operand and result (R7). Every value is unsigned (R8). -/
abbrev Word := BitVec 32

/-- One sample, SAMPLE_BITS = 8 (R7). -/
abbrev Byte := BitVec 8

end Sys2Proof
end

