-- ==== Sys2Proof/Config.lean ====
section
/-! DEFINITION. What an implementation fixes (spec 00_scope.md R7) and the free values, which have no body. -/

namespace Sys2Proof.Config

/-- MAX_ORDER: the largest legal matrix order (R7). -/
abbrev maxOrder : Nat := 16

/-- ORD_BITS: the width of the command word's order field (R7, 30_encoding.md R62). -/
abbrev ordBits : Nat := 5

/-- The OPEN parameter MEM_BYTES (R7), as the address of the last byte of sample memory, so that
MEM_BYTES = memLast + 1 lies in 1 to 2^32 whatever this is. It is what `State.reset` holds; every other
statement holds for every value of the field. DESIGN CHOICE, safe: log entry 1. -/
opaque memLast : Word

/-- FREE VALUE: what the byte of sample memory at an address holds after power-on, before anything has
written it (70_reset_and_hazards.md R129, 93_implementation_defined.md U14). DESIGN CHOICE, safe: log entry 2. -/
opaque powerOnByte : Nat → Byte

/-- FREE VALUE: the n-th choice of a sample index that `State.picks` does not give (43_pass.md R99,
93_implementation_defined.md U13). DESIGN CHOICE, safe: log entry 3. -/
opaque freePick : Nat → Nat

end Sys2Proof.Config
end

