-- ==== Sys2Proof/Machine/State.lean ====
section
/-! DEFINITION. The state of BDC as plain data (spec 10_state.md, 20_memory.md, 60_exceptions.md R117), the
outcomes' reasons, and the state after reset. -/

namespace Sys2Proof.Machine

/-- The command errors (60_exceptions.md R106). Code 0, NONE, is the absence of an error; codes 9 to 15
are reserved and never written (10_state.md R21), so they are not values of this type. -/
inductive CmdError where
  /-- 1: an illegal command word (any word, at decode). -/
  | illegal
  /-- 2: WIDTH differs from HEIGHT (PASS). -/
  | shape
  /-- 3: WIDTH is not a power of two (PASS). -/
  | size
  /-- 4: the matrix order is above 16 (BAYER, QUANT, PASS). -/
  | order
  /-- 5: COLORS < 2 (QUANT, PASS) or CHANNELS = 0 (PASS). -/
  | param
  /-- 6: FINDMSB of 0. -/
  | zero
  /-- 7: a buffer passes the end of sample memory (PASS). -/
  | range
  /-- 8: the source and destination ranges share a byte (PASS). -/
  | overlap
  deriving DecidableEq, Repr

/-- The fields of STATUS (10_state.md R16). Bits [31:8] always read 0 and have no storage. -/
structure Status where
  /-- [0], R17. -/
  busy : Bool
  /-- [1], R18. -/
  done : Bool
  /-- [2], R19. -/
  err : Bool
  /-- [3], R20. -/
  ovr : Bool
  /-- [7:4], R21; `none` is code 0. -/
  errcode : Option CmdError
  deriving DecidableEq, Repr

/-- STATUS = 0x00000000 (10_state.md R40). -/
def Status.reset : Status := { busy := false, done := false, err := false, ovr := false, errcode := none }

/-- Sample memory (20_memory.md R42, R43): (address, byte) pairs, addresses strictly rising. An address
that is not listed has not been written since power-on. -/
abbrev Memory := List Host.Cell

/-- One entry of the error log (60_exceptions.md R117): the code and the command word that raised it. -/
structure ErrorEntry where
  code : CmdError
  command : Word
  deriving DecidableEq, Repr

/-- The width of a host register access (20_memory.md R47). -/
inductive AccessWidth where
  | byte
  | half
  | word
  deriving DecidableEq, Repr

/-- What the host, or the platform for it, can do to BDC (00_scope.md R5, 10_state.md R41). An offset is
a byte offset in the 64-byte window (10_state.md R14). -/
inductive HostAction where
  /-- A register read (30_encoding.md R73). -/
  | read (width : AccessWidth) (offset : BitVec 6)
  /-- A register write (R73). -/
  | write (width : AccessWidth) (offset : BitVec 6) (data : Word)
  /-- A byte read of sample memory through the platform (20_memory.md R42). -/
  | memRead (addr : Nat)
  /-- A byte write of sample memory through the platform (R42). -/
  | memWrite (addr : Nat) (value : Byte)
  /-- The assertion of reset (70_reset_and_hazards.md R126). -/
  | reset
  deriving DecidableEq, Repr

/-- Who moves next (10_state.md R39: between any two core steps the host may take any number of steps). -/
inductive Turn where
  | core
  | host (a : HostAction)
  deriving DecidableEq, Repr

/-- What a host read gives back. -/
inductive Reply where
  | word (w : Word)
  | byte (b : Byte)
  deriving DecidableEq, Repr

/-- What the core has already done for a sample it has not yet been counted to process, because a race with the host
was drawn so (20_memory.md R54; log entry 5). -/
inductive Ahead where
  /-- The source byte has been read, with this value. -/
  | read (source : Byte)
  /-- The source byte has been read and the output byte written. -/
  | written
  deriving DecidableEq, Repr

/-- Everything the spec gives the machine, and the model's own fields (the last five). -/
structure State where
  /-- STATUS, offset 0x04 (10_state.md R16). -/
  status : Status
  /-- OPA, offset 0x08 (R22). -/
  opa : Word
  /-- OPB, offset 0x0C (R23). -/
  opb : Word
  /-- RESULT, offset 0x10 (R24). -/
  result : Word
  /-- WIDTH, offset 0x14 (R25). -/
  width : Word
  /-- HEIGHT, offset 0x18 (R26). -/
  height : Word
  /-- CHANNELS, offset 0x1C (R27). -/
  channels : Word
  /-- COLORS, offset 0x20 (R28). -/
  colors : Word
  /-- ORDER, offset 0x24: bits [4:0]; bits [31:5] read 0 and have no storage (R29). -/
  order : BitVec 5
  /-- SRC_BASE, offset 0x28 (R30). -/
  srcBase : Word
  /-- DST_BASE, offset 0x2C (R31). -/
  dstBase : Word
  /-- PEND: the command word accepted last (R34). -/
  pend : Word
  /-- TODO: the sample indices a running PASS has not processed yet, rising (R34, 43_pass.md R98). -/
  todo : List Nat
  /-- K: the order in use during a PASS (R34). -/
  kReg : BitVec 5
  /-- Sample memory (20_memory.md R42). -/
  mem : Memory
  /-- The address of the last byte of sample memory: MEM_BYTES - 1 (00_scope.md R7; log entry 1). -/
  memLast : Word
  /-- Every `raise Error` since power-on, oldest first (60_exceptions.md R117). -/
  errLog : List ErrorEntry
  /-- The model's own: the turns to come; when it is empty the core moves (log entry 4). -/
  schedule : List Turn
  /-- The model's own: the choices to come, of a sample index (43_pass.md R99; log entry 3) and of the outcome of a
  race (20_memory.md R54; log entry 5). -/
  picks : List Nat
  /-- The model's own: how many choices have been made (log entry 3). -/
  draws : Nat
  /-- The model's own: what the host's reads have returned, oldest first (log entry 13). -/
  replies : List Reply
  /-- The model's own: by sample index, the accesses of a running PASS that a drawn race has put before the step that
  processes the index (20_memory.md R54; log entry 5). Empty unless a PASS runs. -/
  ahead : List (Nat × Ahead)
  deriving DecidableEq, Repr

/-- Where a step stops. -/
inductive Fault where
  /-- Raised by an access to a sample-memory address at or above MEM_BYTES, which does not exist
  (20_memory.md R42): by a host action, or by a sample step of a PASS in a state no run reaches (R45
  rules it out). Safe: the machine stops where the spec gives no effect. -/
  | noSampleByte (addr : Nat)
  deriving DecidableEq, Repr

/-- Why an instruction has no meaning. -/
inductive Refusal where
  /-- Answered by `exec` for an instruction that has no meaning yet; no arm does so now. Safe. -/
  | notModelled (mnemonic : String)
  deriving DecidableEq, Repr

/-- The machine after power-on and reset (10_state.md R40, 70_reset_and_hazards.md R127, R129): every
register and all hidden state 0 or empty, no byte of sample memory written. -/
def State.reset : State where
  status := .reset
  opa := 0
  opb := 0
  result := 0
  width := 0
  height := 0
  channels := 0
  colors := 0
  order := 0
  srcBase := 0
  dstBase := 0
  pend := 0
  todo := []
  kReg := 0
  mem := []
  memLast := Config.memLast
  errLog := []
  schedule := []
  picks := []
  draws := 0
  replies := []
  ahead := []

end Sys2Proof.Machine
end

