-- ==== Sys2Proof/Machine/Flags.lean ====
section
/-! DEFINITION. STATUS: its word, the error codes, and every change of its fields (spec 10_state.md R16 to R21,
R35 to R37; 60_exceptions.md R106, R110, R111). -/

namespace Sys2Proof.Machine

/-- The error codes (60_exceptions.md R106). -/
def CmdError.code : CmdError → BitVec 4
  | .illegal => 1
  | .shape => 2
  | .size => 3
  | .order => 4
  | .param => 5
  | .zero => 6
  | .range => 7
  | .overlap => 8

/-- ERRCODE as bits: 0 (NONE) when there is no error (R106). -/
def Status.errcodeBits (st : Status) : BitVec 4 :=
  match st.errcode with
  | none => 0
  | some e => e.code

/-- STATUS as the host reads it (10_state.md R16): BUSY [0], DONE [1], ERR [2], OVR [3], ERRCODE [7:4],
zeros above. -/
def Status.word (st : Status) : Word :=
  (st.errcodeBits ++ BitVec.ofBool st.ovr ++ BitVec.ofBool st.err ++ BitVec.ofBool st.done
    ++ BitVec.ofBool st.busy).setWidth 32

/-- The acceptance of a command (R35): OVR is kept. -/
def Status.accepted (st : Status) : Status :=
  { st with busy := true, done := false, err := false, errcode := none }

/-- `finish()` (60_exceptions.md R111): ERR, ERRCODE and OVR are kept. -/
def Status.finished (st : Status) : Status :=
  { st with busy := false, done := true }

/-- `raise Error(CODE)` (R110): OVR is kept. -/
def Status.raised (st : Status) (e : CmdError) : Status :=
  { st with busy := false, done := false, err := true, errcode := some e }

/-- A write ignored because BUSY = 1 (10_state.md R20, R36). -/
def Status.overrun (st : Status) : Status :=
  { st with ovr := true }

/-- A host write of v to STATUS (R37): v[3] = 1 clears OVR; no other bit has an effect. -/
def Status.hostWrite (st : Status) (v : Word) : Status :=
  if v.getLsbD 3 then { st with ovr := false } else st

/-- The legal combinations of BUSY, DONE and ERR (idle since reset, executing, ended normally, ended with an
error), and ERRCODE ≠ 0 exactly when ERR = 1 (R16). -/
def Status.legal (st : Status) : Bool :=
  match st.busy, st.done, st.err with
  | false, false, false => st.errcode.isNone
  | true, false, false => st.errcode.isNone
  | false, true, false => st.errcode.isNone
  | false, false, true => st.errcode.isSome
  | _, _, _ => false

end Sys2Proof.Machine
end

