-- ==== Sys2Proof/Machine/Operands.lean ====
section
/-! DEFINITION. The operand forms (spec 30_encoding.md R64, 10_state.md R22, R23): which bits of which register a
command reads. The order of BAYER and QUANT is in the command word (R62) and is an argument of their meanings. -/

namespace Sys2Proof.Machine

/-- ISPOW2, FINDMSB and BITREV: v = OPA, all 32 bits (R22). -/
def State.operandA (s : State) : Word := s.opa

/-- DILATE: v = OPA[15:0], zero-extended (R22). XORIL and BAYER: the column i. -/
def State.operandALow (s : State) : Word := (s.opa.extractLsb' 0 16).setWidth 32

/-- XORIL and BAYER: the row j = OPB[15:0], zero-extended (R23). -/
def State.operandBLow (s : State) : Word := (s.opb.extractLsb' 0 16).setWidth 32

/-- QUANT: the sample s = OPA[7:0] (R22, 42_quantizer.md R90). -/
def State.operandSample (s : State) : Nat := (s.opa.extractLsb' 0 8).toNat

/-- QUANT: the coefficient, OPB, all 32 bits (R23, R90). -/
def State.operandCoef (s : State) : Nat := s.opb.toNat

/-- QUANT and PASS: the colors per channel N = COLORS (10_state.md R28). -/
def State.operandColors (s : State) : Nat := s.colors.toNat

end Sys2Proof.Machine
end

