-- ==== Sys2Proof/Machine/Ops.lean ====
section
/-! DEFINITION. The shared operations: bytes of sample memory, the ends of a command, its acceptance, the choice of a
sample index, and reset (spec 20_memory.md, 60_exceptions.md R110 to R112, 10_state.md R35, 43_pass.md R98, R99,
70_reset_and_hazards.md R126 to R129). -/

namespace Sys2Proof.Machine

/-! ## Sample memory -/

/-- The canonical form: addresses strictly rising. What an unlisted address holds is no value (R129 of
70_reset_and_hazards.md), so no entry equals it. -/
abbrev Memory.wf (m : Memory) : Prop := m.Pairwise (fun c d => c.1 < d.1)

/-- The byte written last at an address; `none` where nothing has been written since power-on. -/
def Memory.cell : Memory → Nat → Option Byte
  | [], _ => none
  | (b, v) :: m, a => if a = b then some v else Memory.cell m a

/-- What an address reads as: the byte written last, and before any write the free value of R129. -/
def Memory.readByte (m : Memory) (a : Nat) : Byte := (m.cell a).getD (Config.powerOnByte a)

/-- Write one byte, in canonical form (20_memory.md R48: no effect beyond the addressed byte). -/
def Memory.writeByte : Memory → Nat → Byte → Memory
  | [], a, v => [(a, v)]
  | (b, w) :: m, a, v =>
    if a < b then (a, v) :: (b, w) :: m
    else if a = b then (a, v) :: m
    else (b, w) :: Memory.writeByte m a v

/-- MEM_BYTES, in 1 to 2^32 (00_scope.md R7). -/
def State.memBytes (s : State) : Nat := s.memLast.toNat + 1

/-- The byte of sample memory at an address, as host and core both read it (R48, R53). -/
def State.byteAt (s : State) (a : Nat) : Byte := s.mem.readByte a

/-- Store one byte of sample memory. -/
def State.storeByte (s : State) (a : Nat) (v : Byte) : State := { s with mem := s.mem.writeByte a v }

/-! ## The ends of a command and its acceptance -/

/-- `x[RESULT] <- v` (10_state.md R24). -/
def State.setResult (s : State) (v : Word) : State := { s with result := v }

/-- `finish()` (60_exceptions.md R111): BUSY 0, DONE 1, TODO empty (and with it the model's record of its races). -/
def finish (s : State) : State := { s with status := s.status.finished, todo := [], ahead := [] }

/-- `raise Error(e)` (R110): BUSY 0, DONE 0, ERR 1, ERRCODE the code, TODO empty; nothing else changes. This is
the whole of exception entry in BDC. The model's log gains one entry (R117); its record of races is empty with TODO. -/
def raiseError (e : CmdError) (s : State) : State :=
  { s with
    status := s.status.raised e
    todo := []
    ahead := []
    errLog := s.errLog ++ [{ code := e, command := s.pend }] }

/-- The acceptance of a command (10_state.md R35). It is also all there is of a return from an error (R112):
it clears ERR and ERRCODE, and nothing is restored. -/
def accept (w : Word) (s : State) : State := { s with pend := w, status := s.status.accepted }

/-- The end of a command that writes RESULT: RESULT and `finish()` in one core step (R109). -/
def finishWith (v : Word) (s : State) : State := finish (s.setResult v)

/-- R9: a Boolean written into a register is 1 for true and 0 for false. -/
def boolWord (b : Bool) : Word := if b then 1 else 0

/-! ## The choice of a sample index -/

/-- The choice the next sample step or race uses: the next one listed in `picks`, and the free value where none is
(43_pass.md R99, 20_memory.md R54; log entries 3 and 5). -/
def State.pick (s : State) : Nat :=
  match s.picks with
  | p :: _ => p
  | [] => Config.freePick s.draws

/-- The index of TODO the next sample step processes: any element, as the choice has it; none exactly when
TODO is empty (R98, R99). -/
def State.chosenIndex (s : State) : Option Nat := s.todo[s.pick % s.todo.length]?

/-- The choice is used up. -/
def State.usePick (s : State) : State := { s with picks := s.picks.tail, draws := s.draws + 1 }

/-- TODO <- TODO \ {idx} (R98); what was recorded of the index's races goes with it. -/
def State.removeTodo (s : State) (idx : Nat) : State :=
  { s with todo := s.todo.filter (· != idx), ahead := s.ahead.filter (·.1 != idx) }

/-! ## Reset -/

/-- The assertion of reset (70_reset_and_hazards.md R126 to R129): every register and all hidden state to the
value in 10_state.md R40; a running command ends with neither `finish()` nor `raise Error`; sample memory,
MEM_BYTES, the error log (R117) and the model's own fields are kept, but for the record of the races of the PASS that
is abandoned. -/
def assertReset (s : State) : State :=
  { State.reset with
    mem := s.mem
    memLast := s.memLast
    errLog := s.errLog
    schedule := s.schedule
    picks := s.picks
    draws := s.draws
    replies := s.replies }

end Sys2Proof.Machine
end

