-- ==== Sys2Proof/Machine/BitOps.lean ====
section
/-! DEFINITION. BitOps (spec 40_bitops.md): ISPOW2, FINDMSB, DILATE, BITREV. The functions are defined by the spec's
bit equations; none of the four commands touches sample memory. -/

namespace Sys2Proof.Machine

/-- The 32-bit word whose bit n is `f n`. -/
def wordOfBits (f : Nat → Bool) : Word := BitVec.ofFnLE (n := 32) (fun n => f n)

/-- The number of set bits (00_scope.md R9). -/
def popcount (v : Word) : Nat := (List.range 32).countP (fun n => v.getLsbD n)

/-- `IsPow2(v)`: exactly one bit is set (R74); false for 0. -/
def isPow2 (v : Word) : Bool := popcount v == 1

/-- `FindMSB(v) = floor_log2(v)` (R75), for v > 0. -/
def findMSB (v : Word) : Nat := v.toNat.log2

/-- `Dilate(v)` (R76): r[2b] = v[b] and r[2b+1] = 0 for b in 0 to 15. -/
def dilate (v : Word) : Word := wordOfBits (fun n => n % 2 == 0 && v.getLsbD (n / 2))

/-- `BitReverse(v)` (R77): r[31 - n] = v[n]. -/
def bitReverse (v : Word) : Word := wordOfBits (fun n => v.getLsbD (31 - n))

/-- ISPOW2 (R74). -/
def execIspow2 (s : State) : Host.Outcome State Fault Refusal :=
  .next (finishWith (boolWord (isPow2 s.operandA)) s)

/-- FINDMSB (R75): OPA = 0 raises ZERO. -/
def execFindmsb (s : State) : Host.Outcome State Fault Refusal :=
  if s.operandA = 0 then .next (raiseError .zero s)
  else .next (finishWith (BitVec.ofNat 32 (findMSB s.operandA)) s)

/-- DILATE (R76). -/
def execDilate (s : State) : Host.Outcome State Fault Refusal :=
  .next (finishWith (dilate s.operandALow) s)

/-- BITREV (R77). -/
def execBitrev (s : State) : Host.Outcome State Fault Refusal :=
  .next (finishWith (bitReverse s.operandA) s)

end Sys2Proof.Machine
end

