-- ==== Sys2Proof/Machine/Bayer.lean ====
section
/-! DEFINITION. The Bayer coefficient generator (spec 41_bayer.md): XORIL and BAYER. -/

namespace Sys2Proof.Machine

/-- `XorInterleave(i, j) = Dilate(i xor j) | (Dilate(j) << 1)` (R78). -/
def xorInterleave (i j : Word) : Word := dilate (i ^^^ j) ||| (dilate j <<< 1)

/-- `BayerCoef(i, j, k)` (R79), for k ≤ 16: i is the column, j the row (00_scope.md R13). Order 0 gives 0 without
a shift by the full width. -/
def bayerCoef (i j : Word) (k : Nat) : Word :=
  if k = 0 then 0 else bitReverse (xorInterleave i j) >>> (32 - 2 * k)

/-- XORIL (R78). -/
def execXoril (s : State) : Host.Outcome State Fault Refusal :=
  .next (finishWith (xorInterleave s.operandALow s.operandBLow) s)

/-- BAYER k (R79): k > 16 raises ORDER. -/
def execBayer (k : Nat) (s : State) : Host.Outcome State Fault Refusal :=
  if k > Config.maxOrder then .next (raiseError .order s)
  else .next (finishWith (bayerCoef s.operandALow s.operandBLow k) s)

end Sys2Proof.Machine
end

