-- ==== Sys2Proof/Machine/Quantizer.lean ====
section
/-! DEFINITION. The ordered-dither comparator and quantizer (spec 42_quantizer.md): QUANT. Exact naturals only (R86). -/

namespace Sys2Proof.Machine

/-- The chosen level L of R89: `a` where the sample is an exact level (rem = 0), else `a + 1` when the ratio
exceeds the threshold, else `a`. -/
def quantLevel (s coef k n : Nat) : Nat :=
  let t := s * (n - 1)
  let a := t / 255
  let rem := t % 255
  if rem = 0 then a else if rem * 4 ^ k > coef * 255 then a + 1 else a

/-- round(L / M * 255) with halves up (R87, R89). -/
def levelOutput (l m : Nat) : Nat := (2 * l * 255 + m) / (2 * m)

/-- `Quantize(s, coef, k, N)` (R89), for s ≤ 255, k ≤ 16 and N ≥ 2. -/
def quantize (s coef k n : Nat) : Nat := levelOutput (quantLevel s coef k n) (n - 1)

/-- QUANT k (R90): ORDER is checked before PARAM (60_exceptions.md R108). -/
def execQuant (k : Nat) (s : State) : Host.Outcome State Fault Refusal :=
  if k > Config.maxOrder then .next (raiseError .order s)
  else if s.operandColors < 2 then .next (raiseError .param s)
  else .next (finishWith (BitVec.ofNat 32 (quantize s.operandSample s.operandCoef k s.operandColors)) s)

end Sys2Proof.Machine
end

