-- ==== Sys2Proof/Machine/Pass.lean ====
section
/-! DEFINITION. The dither pass (spec 43_pass.md): PASS. One core step for the checks (R97), then one for each
sample (R98); the last one ends the command (R100, 10_state.md R39). -/

namespace Sys2Proof.Machine

/-- S = W·H·C, exact (20_memory.md R44). -/
def passSamples (s : State) : Nat := s.width.toNat * s.height.toNat * s.channels.toNat

/-- The address of the input sample with an index (20_memory.md R45), an exact natural. -/
def sourceAddress (s : State) (idx : Nat) : Nat := s.srcBase.toNat + idx

/-- The address of the output sample with an index (R45), an exact natural. -/
def destAddress (s : State) (idx : Nat) : Nat := s.dstBase.toNat + idx

/-- SB + S > MEM_BYTES or DB + S > MEM_BYTES (R97, step 5). -/
def outOfRange (s : State) : Bool :=
  s.srcBase.toNat + passSamples s > s.memBytes || s.dstBase.toNat + passSamples s > s.memBytes

/-- SB < DB + S and DB < SB + S: the two ranges share a byte (R97, step 6). -/
def buffersOverlap (s : State) : Bool :=
  s.srcBase.toNat < s.dstBase.toNat + passSamples s && s.dstBase.toNat < s.srcBase.toNat + passSamples s

/-- The checks of R97 in their order; `none` when all pass. -/
def passError (s : State) : Option CmdError :=
  if s.width ≠ s.height then some .shape
  else if isPow2 s.width = false then some .size
  else if findMSB s.width > Config.maxOrder then some .order
  else if s.channels = 0 ∨ s.operandColors < 2 then some .param
  else if outOfRange s then some .range
  else if buffersOverlap s then some .overlap
  else none

/-- R97, step 7: ORDER <- k; K <- k; TODO <- {0, ..., S - 1}. -/
def passStart (s : State) : State :=
  { s with
    order := BitVec.ofNat 5 (findMSB s.width)
    kReg := BitVec.ofNat 5 (findMSB s.width)
    todo := List.range (passSamples s) }

/-- The check step, `check()` (R97). It performs no memory access. -/
def passCheck (s : State) : State :=
  match passError s with
  | some e => raiseError e s
  | none => passStart s

/-- x = p mod W with p = idx div C (R98): the column. -/
def sampleColumn (s : State) (idx : Nat) : Nat := idx / s.channels.toNat % s.width.toNat

/-- y = p div W with p = idx div C (R98): the row. -/
def sampleRow (s : State) (idx : Nat) : Nat := idx / s.channels.toNat / s.width.toNat

/-- coef = BayerCoef(x, y, K) (R98). -/
def sampleCoef (s : State) (idx : Nat) : Word :=
  bayerCoef (BitVec.ofNat 32 (sampleColumn s idx)) (BitVec.ofNat 32 (sampleRow s idx)) s.kReg.toNat

/-- s <- MemRead(SB + idx, 1) (R98): the byte at the source address, unless a drawn race has made the core read it
before (20_memory.md R54). -/
def sourceByte (s : State) (idx : Nat) : Byte :=
  match s.ahead.lookup idx with
  | some (.read b) => b
  | some .written => s.byteAt (sourceAddress s idx)
  | none => s.byteAt (sourceAddress s idx)

/-- out = Quantize(s, coef, K, N) for the source byte of an index (R98). -/
def sampleOutput (s : State) (idx : Nat) : Byte :=
  BitVec.ofNat 8 (quantize (sourceByte s idx).toNat (sampleCoef s idx).toNat s.kReg.toNat s.operandColors)

/-- MemWrite(DB + idx, 1, out) (R98), unless a drawn race has made the core write it before (20_memory.md R54): each
destination byte is written once (R102). -/
def sampledMemory (s : State) (idx : Nat) : Memory :=
  match s.ahead.lookup idx with
  | some .written => s.mem
  | some (.read _) => s.mem.writeByte (destAddress s idx) (sampleOutput s idx)
  | none => s.mem.writeByte (destAddress s idx) (sampleOutput s idx)

/-- The effect of one sample step: the output byte is stored, the index leaves TODO, the choice is used up. -/
def storeSample (idx : Nat) (s : State) : State :=
  (State.removeTodo { s with mem := sampledMemory s idx } idx).usePick

/-- When TODO is empty the PASS ends with `finish()`, in the step of its last sample (R100, 10_state.md R39). -/
def finishIfDone (s : State) : State := if s.todo = [] then finish s else s

/-- One sample step, `sample_step()` (R98). `MemRead` and `MemWrite` need an address below MEM_BYTES
(00_scope.md R10). -/
def sampleStep (idx : Nat) (s : State) : Host.Outcome State Fault Refusal :=
  if sourceAddress s idx ≥ s.memBytes then .fault (.noSampleByte (sourceAddress s idx))
  else if destAddress s idx ≥ s.memBytes then .fault (.noSampleByte (destAddress s idx))
  else .next (finishIfDone (storeSample idx s))

/-- PASS (R95), one core step of it: the check step while TODO is empty, else a sample step. -/
def execPass (s : State) : Host.Outcome State Fault Refusal :=
  match s.chosenIndex with
  | none => .next (passCheck s)
  | some idx => sampleStep idx s

end Sys2Proof.Machine
end

