-- ==== Sys2Proof/Syntax.lean ====
section
/-! DEFINITION. The commands: one constructor for each row of spec/opcode_table.json (30_encoding.md R65). -/

namespace Sys2Proof

/-- The eight commands. ORD is the only operand in the word (R62); the others are registers (R64). -/
inductive Instr where
  /-- ISPOW2, power-of-two test of OPA (40_bitops.md R74). -/
  | ispow2
  /-- FINDMSB, most-significant-bit index of OPA (R75). -/
  | findmsb
  /-- DILATE, bit dilation of OPA (R76). -/
  | dilate
  /-- BITREV, 32-bit reversal of OPA (R77). -/
  | bitrev
  /-- XORIL, XOR-interleave of OPA and OPB (41_bayer.md R78). -/
  | xoril
  /-- BAYER k, Bayer matrix coefficient (R79). -/
  | bayer (k : Nat)
  /-- QUANT k, quantize one sample (42_quantizer.md R90). -/
  | quant (k : Nat)
  /-- PASS, dither a whole image (43_pass.md R95). -/
  | pass
  deriving DecidableEq, Repr

end Sys2Proof
end

