-- ==== Sys2Proof/Machine/Dispatch.lean ====
section
/-! DEFINITION. One arm per command: spec 30_encoding.md R65. -/

namespace Sys2Proof.Machine

def exec (i : Instr) (s : State) : Host.Outcome State Fault Refusal :=
  match i with
  | .ispow2 => Sys2Proof.Machine.execIspow2 s
  | .findmsb => Sys2Proof.Machine.execFindmsb s
  | .dilate => Sys2Proof.Machine.execDilate s
  | .bitrev => Sys2Proof.Machine.execBitrev s
  | .xoril => Sys2Proof.Machine.execXoril s
  | .bayer k => Sys2Proof.Machine.execBayer k s
  | .quant k => Sys2Proof.Machine.execQuant k s
  | .pass => Sys2Proof.Machine.execPass s

end Sys2Proof.Machine
end

