-- ==== Sys2Proof/WellFormed.lean ====
section
/-! DEFINITION. Which terms of Instr are commands: the order fits the ORD field (spec 30_encoding.md R62). -/

namespace Sys2Proof

/-- The order fits ORD, which holds 0 to 31. Orders 17 to 31 decode and then raise ORDER (R62), so they are
well-formed. -/
def wellFormed : Instr → Bool
  | .ispow2 => true
  | .findmsb => true
  | .dilate => true
  | .bitrev => true
  | .xoril => true
  | .bayer k => decide (k < 2 ^ Config.ordBits)
  | .quant k => decide (k < 2 ^ Config.ordBits)
  | .pass => true

/-- The check as a proposition. -/
abbrev WellFormed (i : Instr) : Prop := wellFormed i = true

end Sys2Proof
end

