-- ==== Sys2Proof/Decode.lean ====
section
/-! DEFINITION. The decoder (spec 30_encoding.md R66) and, after it, the encoder (R59, R65). Both are total. -/

namespace Sys2Proof

/-- Why a word is illegal (30_encoding.md R67). Every reason ends the command with ILLEGAL (code 1). -/
inductive IllegalWord where
  /-- RSV, bits [31:13], is not 0 (R63). -/
  | reservedBits
  /-- OP is 0x00 or in 0x09 to 0xFF (R61). -/
  | unassignedOp
  /-- ORD is not 0 in a command that has no order (R62). -/
  | orderOnPlainCommand
  deriving DecidableEq, Repr

/-- OP, bits [7:0] (R59). -/
def opField (w : Word) : Nat := (w.extractLsb' 0 8).toNat

/-- ORD, bits [12:8], zero-extended (R59, R62). -/
def ordField (w : Word) : Nat := (w.extractLsb' 8 5).toNat

/-- RSV, bits [31:13] (R59). -/
def rsvField (w : Word) : Nat := (w.extractLsb' 13 19).toNat

/-- A command that has no order: a non-zero ORD is illegal (R62, R66). -/
def plainCommand (ord : Nat) (i : Instr) : Except IllegalWord Instr :=
  if ord = 0 then .ok i else .error .orderOnPlainCommand

/-- `decode(w)` of R66: RSV first, then OP, then ORD. It reads nothing but the word. -/
def decode (w : Word) : Except IllegalWord Instr :=
  if rsvField w ≠ 0 then .error .reservedBits
  else
    match opField w with
    | 0x01 => plainCommand (ordField w) .ispow2
    | 0x02 => plainCommand (ordField w) .findmsb
    | 0x03 => plainCommand (ordField w) .dilate
    | 0x04 => plainCommand (ordField w) .bitrev
    | 0x05 => plainCommand (ordField w) .xoril
    | 0x06 => .ok (.bayer (ordField w))
    | 0x07 => .ok (.quant (ordField w))
    | 0x08 => plainCommand (ordField w) .pass
    | _ => .error .unassignedOp

/-- The match word of a command's row in R65. -/
def rowMatch : Instr → Word
  | .ispow2 => 0x00000001
  | .findmsb => 0x00000002
  | .dilate => 0x00000003
  | .bitrev => 0x00000004
  | .xoril => 0x00000005
  | .bayer _ => 0x00000006
  | .quant _ => 0x00000007
  | .pass => 0x00000008

/-- The mask word of a command's row in R65. -/
def rowMask : Instr → Word
  | .ispow2 => 0xFFFFFFFF
  | .findmsb => 0xFFFFFFFF
  | .dilate => 0xFFFFFFFF
  | .bitrev => 0xFFFFFFFF
  | .xoril => 0xFFFFFFFF
  | .bayer _ => 0xFFFFE0FF
  | .quant _ => 0xFFFFE0FF
  | .pass => 0xFFFFFFFF

/-- The order a command carries in ORD; 0 for the commands that have none (R62). -/
def orderOf : Instr → Nat
  | .ispow2 => 0
  | .findmsb => 0
  | .dilate => 0
  | .bitrev => 0
  | .xoril => 0
  | .bayer k => k
  | .quant k => k
  | .pass => 0

/-- The word of a well-formed command: `(k << 8) | match` (R65, R71). -/
def encode (i : Instr) : Word := (BitVec.ofNat 32 (orderOf i) <<< 8) ||| rowMatch i

/-- The instruction the decoder reads from a table row's word of `nbits` bits. A command is one 32-bit
register write (R60), so no byte order arises; bits at or above `nbits` are 0. -/
def decodeTableWord (nbits w : Nat) : Option Instr :=
  (decode (BitVec.ofNat 32 (w % 2 ^ nbits))).toOption

end Sys2Proof
end

