-- ==== Sys2Proof/Machine/Race.lean ====
section
/-! DEFINITION. Host accesses to the buffers of a running PASS (spec 20_memory.md R52 to R54): each is a race, and the
model draws which of the core's access and the host's comes first (log entry 5). -/

namespace Sys2Proof.Machine

/-- A PASS that passes its checks is running: from its acceptance until BUSY falls (R54: STATUS.BUSY = 1). A PASS that
fails a check makes no access to race with (43_pass.md R101). -/
def State.passRuns (s : State) : Bool :=
  s.status.busy && s.pend == encode .pass && (passError s).isNone

/-- The running PASS has still to process the index: before its check step every index below S, then those of TODO.
DESIGN CHOICE, safe: R54 speaks of STATUS.BUSY = 1, so a race is drawn between acceptance and the check step too, and
what ORDER reads then is log entry 17. -/
def State.unprocessed (s : State) (idx : Nat) : Bool :=
  decide (idx < passSamples s) && (s.todo.isEmpty || s.todo.contains idx)

/-- The unprocessed index whose byte in the buffer at a base address is the byte at an address (20_memory.md R45). -/
def bufferIndex (s : State) (base : Word) (a : Nat) : Option Nat :=
  if s.passRuns && decide (base.toNat ≤ a) && s.unprocessed (a - base.toNat) then some (a - base.toNat) else none

/-- The index whose source byte is at an address and has still to be read by the core (R54, SRCR). -/
def sourceRace (s : State) (a : Nat) : Option Nat :=
  (bufferIndex s s.srcBase a).filter fun idx => (s.ahead.lookup idx).isNone

/-- The index whose destination byte is at an address and has still to be written by the core (R54, DSTR). -/
def destRace (s : State) (a : Nat) : Option Nat :=
  (bufferIndex s s.dstBase a).filter fun idx => s.ahead.lookup idx != some .written

/-- The core reads the source byte of an index now, before the step that processes the index. Before the check step
ORDER, K and TODO still hold what they held (DESIGN CHOICE, safe: log entry 17). -/
def readAhead (idx : Nat) (s : State) : State :=
  { s with ahead := (idx, .read (s.byteAt (sourceAddress s idx))) :: s.ahead }

/-- The final output byte of an index of a running PASS (43_pass.md R104), whose order is FindMSB(WIDTH) before and
after its check step (R97). -/
def aheadOutput (s : State) (idx : Nat) : Byte :=
  sampleOutput { s with kReg := BitVec.ofNat 5 (findMSB s.width) } idx

/-- The core writes the output byte of an index now, having read its source byte (R52), before the step that processes
the index. Before the check step ORDER, K and TODO still hold what they held (DESIGN CHOICE, safe: log entry 17). -/
def writeAhead (idx : Nat) (s : State) : State :=
  { s with
    mem := s.mem.writeByte (destAddress s idx) (aheadOutput s idx)
    ahead := (idx, .written) :: s.ahead.filter (·.1 != idx) }

/-- The draw of R54: an odd choice puts the core's access before the host's, an even one leaves it to come after. -/
def drawRace (access : State → State) (s : State) : State :=
  if s.pick % 2 = 1 then access s.usePick else s.usePick

/-- The draw of a host access to an address, when it is to a destination byte the core has still to write. -/
def raceOnDest (a : Nat) (s : State) : State :=
  match destRace s a with
  | none => s
  | some idx => drawRace (writeAhead idx) s

/-- The draw of a host write to an address: against the core's read of a source byte, or its write of a destination
byte. -/
def raceOnWrite (a : Nat) (s : State) : State :=
  match sourceRace s a with
  | none => raceOnDest a s
  | some idx => drawRace (readAhead idx) s

end Sys2Proof.Machine
end

