-- ==== Sys2Proof/Machine/HostBus.lean ====
section
/-! DEFINITION. The register window and the host's transactions (spec 10_state.md R14, R15, R32, R35 to R38;
20_memory.md R46, R47, R54; 30_encoding.md R70 to R73). -/

namespace Sys2Proof.Machine

/-- The twelve registers (10_state.md R14). -/
inductive Reg where
  | cmd
  | status
  | opa
  | opb
  | result
  | width
  | height
  | channels
  | colors
  | order
  | srcBase
  | dstBase
  deriving DecidableEq, Repr

/-- A register's byte offset in the window (R14). -/
def Reg.offset : Reg → BitVec 6
  | .cmd => 0x00
  | .status => 0x04
  | .opa => 0x08
  | .opb => 0x0C
  | .result => 0x10
  | .width => 0x14
  | .height => 0x18
  | .channels => 0x1C
  | .colors => 0x20
  | .order => 0x24
  | .srcBase => 0x28
  | .dstBase => 0x2C

/-- The register at a byte offset; none at the reserved offsets 0x30 to 0x3C (R32) and at an offset that is
not a multiple of 4 (20_memory.md R47). -/
def regAt (off : BitVec 6) : Option Reg :=
  match off.toNat with
  | 0x00 => some .cmd
  | 0x04 => some .status
  | 0x08 => some .opa
  | 0x0C => some .opb
  | 0x10 => some .result
  | 0x14 => some .width
  | 0x18 => some .height
  | 0x1C => some .channels
  | 0x20 => some .colors
  | 0x24 => some .order
  | 0x28 => some .srcBase
  | 0x2C => some .dstBase
  | _ => none

/-- What a register access reaches: a register only by a 32-bit access (20_memory.md R47). -/
def accessedReg (width : AccessWidth) (off : BitVec 6) : Option Reg :=
  match width with
  | .word => regAt off
  | .half => none
  | .byte => none

/-- A register's value as the host reads it (10_state.md R38): CMD reads 0 (R15), ORDER is zero-extended
(R29). -/
def readReg (r : Reg) (s : State) : Word :=
  match r with
  | .cmd => 0
  | .status => s.status.word
  | .opa => s.opa
  | .opb => s.opb
  | .result => s.result
  | .width => s.width
  | .height => s.height
  | .channels => s.channels
  | .colors => s.colors
  | .order => s.order.setWidth 32
  | .srcBase => s.srcBase
  | .dstBase => s.dstBase

/-- A host write while BUSY = 0 to a register other than STATUS (R35, R37): CMD accepts, RESULT and ORDER are
read-only. -/
def writeIdle (r : Reg) (v : Word) (s : State) : State :=
  match r with
  | .cmd => accept v s
  | .status => s
  | .opa => { s with opa := v }
  | .opb => { s with opb := v }
  | .result => s
  | .width => { s with width := v }
  | .height => { s with height := v }
  | .channels => { s with channels := v }
  | .colors => { s with colors := v }
  | .order => s
  | .srcBase => { s with srcBase := v }
  | .dstBase => { s with dstBase := v }

/-- A host write of v to a register: STATUS by R37 whatever BUSY is; any other register by R36 while BUSY = 1
(ignored, OVR set), else by R35 and R37. -/
def writeReg (r : Reg) (v : Word) (s : State) : State :=
  if r = .status then { s with status := s.status.hostWrite v }
  else if s.status.busy then { s with status := s.status.overrun }
  else writeIdle r v s

/-- A host read in the window: 0 where no register is reached (R32, 20_memory.md R47). -/
def busRead (width : AccessWidth) (off : BitVec 6) (s : State) : Word :=
  match accessedReg width off with
  | none => 0
  | some r => readReg r s

/-- A host write in the window: no effect where no register is reached, even while BUSY = 1 (R32, R47). -/
def busWrite (width : AccessWidth) (off : BitVec 6) (v : Word) (s : State) : State :=
  match accessedReg width off with
  | none => s
  | some r => writeReg r v s

/-- A read's value goes to the host; no read has a side effect (10_state.md R38, 20_memory.md R48). -/
def State.reply (s : State) (r : Reply) : State := { s with replies := s.replies ++ [r] }

/-- A host read of a byte of sample memory (20_memory.md R48, R53): a byte of a running PASS's destination that the core
has still to write is drawn, old or final (R54). -/
def hostLoad (a : Nat) (s : State) : State :=
  (raceOnDest a s).reply (.byte ((raceOnDest a s).byteAt a))

/-- A host write of a byte of sample memory (R48, R53): against a running PASS's access to the byte, which of the two
comes first is drawn (R54). -/
def hostStore (a : Nat) (v : Byte) (s : State) : State := (raceOnWrite a s).storeByte a v

/-- One host action. A host access to sample memory lands between core steps whatever BUSY is (20_memory.md
R54; log entry 5), and an address at or above MEM_BYTES does not exist (R42). -/
def hostStep (a : HostAction) (s : State) : Host.Outcome State Fault Refusal :=
  match a with
  | .read width off => .next (s.reply (.word (busRead width off s)))
  | .write width off v => .next (busWrite width off v s)
  | .memRead addr =>
    if addr ≥ s.memBytes then .fault (.noSampleByte addr) else .next (hostLoad addr s)
  | .memWrite addr v =>
    if addr ≥ s.memBytes then .fault (.noSampleByte addr) else .next (hostStore addr v s)
  | .reset => .next (assertReset s)

/-- `WR REG, v` of the host notation (30_encoding.md R70, R73). -/
def wr (r : Reg) (v : Word) : Turn := .host (.write .word r.offset v)

/-- `RD REG` of the host notation (R70, R73). -/
def rd (r : Reg) : Turn := .host (.read .word r.offset)

/-- `CMD <MNEMONIC>` and `CMD <MNEMONIC> <k>` (R71): a write of the command's word to CMD. -/
def cmd (i : Instr) : Turn := wr .cmd (encode i)

end Sys2Proof.Machine
end

