-- ==== Sys2Proof/Machine/CoreStep.lean ====
section
/-! DEFINITION. The core's turn (spec 10_state.md R39, 30_encoding.md R66). -/

namespace Sys2Proof.Machine

/-- One core step. It has one only while BUSY = 1 (R39): decode PEND and perform the command's rule; an illegal
word raises ILLEGAL (R66, R67). While BUSY = 0 the core is idle and nothing changes (60_exceptions.md R125). -/
def coreStep (s : State) : Host.Outcome State Fault Refusal :=
  if s.status.busy then
    match decode s.pend with
    | .ok i => exec i s
    | .error _ => .next (raiseError .illegal s)
  else .next s

/-- The next turn and the state in which it is taken: the head of the schedule; the core's where the schedule is
empty (log entry 4). -/
def nextTurn (s : State) : Turn × State :=
  match s.schedule with
  | [] => (.core, s)
  | t :: rest => (t, { s with schedule := rest })

/-- One turn: the core's or the host's (00_scope.md R6). -/
def takeTurn (t : Turn) (s : State) : Host.Outcome State Fault Refusal :=
  match t with
  | .core => coreStep s
  | .host a => hostStep a s

/-- A state in which the word w has just been accepted (R35) and the next turn is the core's; a command that was
running is dropped (log entry 11). -/
def acceptedNow (w : Word) (s : State) : State :=
  { accept w s with todo := [], ahead := [], schedule := .core :: s.schedule }

end Sys2Proof.Machine
end

