-- ==== Sys2Proof/Machine/Step.lean ====
section
/-! DEFINITION. One step of the machine: the next turn of the schedule (spec 00_scope.md R6, 10_state.md R39). -/

namespace Sys2Proof.Machine

/-- One step: the next turn is taken. -/
def step (s : State) : Host.Outcome State Fault Refusal :=
  takeTurn (nextTurn s).1 (nextTurn s).2

/-- The state in which the next step runs the command whose low `nbits` bits are those of w: the word stands in
PEND as just accepted (10_state.md R35). -/
def State.withFetchWord (s : State) (nbits w : Nat) : State :=
  acceptedNow (BitVec.ofNat 32 (w % 2 ^ nbits)) s

end Sys2Proof.Machine
end

