-- ==== Sys2Proof/Safety.lean ====
section
/-! DEFINITION. What claims call a safe state and a safe turn: the invariant of BDC (spec 10_state.md R16, R34, R36;
43_pass.md R97, R98; 20_memory.md R43, R45) and the host duties (10_state.md R41, 20_memory.md R54). -/

namespace Sys2Proof.Machine

/-- The command word of PASS (30_encoding.md R65). -/
def passWord : Word := 0x00000008

/-- What holds while a PASS has samples left (R34, R36, R97, R98): BUSY = 1, PEND still holds PASS, its checks
still pass, ORDER holds FindMSB(WIDTH), and TODO is a set of indices below S, listed rising. -/
structure PassRunning (s : State) : Prop where
  busy : s.status.busy = true
  pend : s.pend = passWord
  checked : passError s = none
  order : s.order.toNat = findMSB s.width
  rising : s.todo.Pairwise (· < ·)
  below : ∀ idx ∈ s.todo, idx < passSamples s

/-- The invariant of BDC. -/
structure Inv (s : State) : Prop where
  /-- Sample memory keeps its canonical form. -/
  memory : s.mem.wf
  /-- Nothing is held at an address at or above MEM_BYTES (20_memory.md R42, R43). -/
  addresses : ∀ c ∈ s.mem, c.1 < s.memBytes
  /-- STATUS is one of the legal combinations of 10_state.md R16. -/
  status : s.status.legal = true
  /-- K equals ORDER (10_state.md R34). -/
  order : s.kReg = s.order
  /-- The order is at most 16 (10_state.md R29, 43_pass.md R97). -/
  orderBound : s.order.toNat ≤ Config.maxOrder
  /-- TODO holds indices only while a PASS runs (10_state.md R34). -/
  pass : s.todo ≠ [] → PassRunning s
  /-- Accesses are ahead of their sample step only while a PASS runs that passes its checks (20_memory.md R54). -/
  aheadPass : s.ahead ≠ [] → s.passRuns = true
  /-- They are those of indices still to be processed. -/
  aheadTodo : ∀ e ∈ s.ahead, s.unprocessed e.1 = true
  /-- One record at most for an index. -/
  aheadOnce : s.ahead.Pairwise (fun e f => e.1 ≠ f.1)

/-- A turn that does not reach past sample memory (20_memory.md R42). -/
def Turn.inMemory (s : State) : Turn → Prop
  | .core => True
  | .host (.read _ _) => True
  | .host (.write _ _ _) => True
  | .host (.memRead a) => a < s.memBytes
  | .host (.memWrite a _) => a < s.memBytes
  | .host .reset => True

/-! ## The ends of a command, written out from the spec for the statements -/

/-- What a command that ends normally leaves (10_state.md R24, 60_exceptions.md R111): RESULT, BUSY 0, DONE 1 and
TODO (with the record of its races) empty; everything else as before. -/
def State.normalEnd (s : State) (r : Word) : State :=
  { s with
    result := r
    todo := []
    ahead := []
    status := { busy := false, done := true, err := s.status.err, ovr := s.status.ovr, errcode := s.status.errcode } }

/-- What a command that ends with an error leaves (60_exceptions.md R110, R117): BUSY 0, DONE 0, ERR 1, ERRCODE and
TODO (with the record of its races) empty; the model's log gains the entry; everything else as before. -/
def State.errorEnd (s : State) (e : CmdError) : State :=
  { s with
    todo := []
    ahead := []
    status := { busy := false, done := false, err := true, ovr := s.status.ovr, errcode := some e }
    errLog := s.errLog ++ [{ code := e, command := s.pend }] }

/-- The errors each command can end with (60_exceptions.md R107). -/
def possibleErrors : Instr → List CmdError
  | .ispow2 => []
  | .findmsb => [.zero]
  | .dilate => []
  | .bitrev => []
  | .xoril => []
  | .bayer _ => [.order]
  | .quant _ => [.order, .param]
  | .pass => [.shape, .size, .order, .param, .range, .overlap]

/-! ## The source's per-sample rule over exact rationals -/

/-- The output of 42_quantizer.md R85 with every quantity an exact rational (R86) and halves rounded up (R87):
u, q, qmin, qmax, v, level and out in the rule's own steps. -/
def exactOutput (s coef k n : Nat) : Int :=
  let u : ℚ := (s : ℚ) / 255
  let q : ℚ := u * ((n : ℚ) - 1)
  let qmin : ℚ := (⌊q⌋ : ℚ) / ((n : ℚ) - 1)
  let qmax : ℚ := (⌈q⌉ : ℚ) / ((n : ℚ) - 1)
  let v : ℚ := (coef : ℚ) / 4 ^ k
  let level : ℚ := if qmax > qmin then (if (u - qmin) / (qmax - qmin) > v then qmax else qmin) else qmin
  ⌊level * 255 + 1 / 2⌋

/-! ## The passes and runs that statements speak of -/

/-- The source range [SB, SB + S) of a PASS (20_memory.md R54). -/
def inSource (s : State) (a : Nat) : Prop := s.srcBase.toNat ≤ a ∧ a < s.srcBase.toNat + passSamples s

/-- The destination range [DB, DB + S) of a PASS (20_memory.md R54). -/
def inDest (s : State) (a : Nat) : Prop := s.dstBase.toNat ≤ a ∧ a < s.dstBase.toNat + passSamples s

/-- A turn that keeps the host duties of 43_pass.md R104 for the PASS of state s, and does not reset: no host write
to the source or destination range. -/
def Turn.harmless (s : State) : Turn → Prop
  | .core => True
  | .host (.read _ _) => True
  | .host (.write _ _ _) => True
  | .host (.memRead _) => True
  | .host (.memWrite a _) => ¬ inSource s a ∧ ¬ inDest s a
  | .host .reset => False

/-- A PASS has been accepted, its check step is next (10_state.md R35, R39), and no host access has raced with it yet. -/
def passAccepted (s : State) : Prop := s.status.busy = true ∧ s.pend = passWord ∧ s.todo = [] ∧ s.ahead = []

/-- n steps of the machine, stopping at the first fault or refusal. -/
abbrev run (n : Nat) (s : State) : Host.Outcome State Fault Refusal := Host.Core.run Sys2Proof.core n s

/-- The index of the sample at column x, row y and channel c (20_memory.md R44). -/
def sampleIndex (s : State) (x y c : Nat) : Nat := c + s.channels.toNat * (x + s.width.toNat * y)

/-- What 43_pass.md R104 says the output byte at column x, row y and channel c becomes in a PASS of order k: computed
from the source byte in s. -/
def finalByte (s : State) (k x y c : Nat) : Byte :=
  BitVec.ofNat 8 (quantize (s.byteAt (s.srcBase.toNat + sampleIndex s x y c)).toNat
    (bayerCoef (BitVec.ofNat 32 x) (BitVec.ofNat 32 y) k).toNat k s.colors.toNat)

/-- What the running PASS of state s writes for an index whose source byte the core read as b (43_pass.md R98, R104):
x = p mod W and y = p div W for p = idx div C, and k = FindMSB(W). -/
def outputFor (s : State) (idx : Nat) (b : Byte) : Byte :=
  let p := idx / s.channels.toNat
  let k := findMSB s.width
  BitVec.ofNat 8 (quantize b.toNat
    (bayerCoef (BitVec.ofNat 32 (p % s.width.toNat)) (BitVec.ofNat 32 (p / s.width.toNat)) k).toNat k s.colors.toNat)

/-- A 32-bit host read at an offset returns the value v has in the state, and changes nothing else (10_state.md
R38). -/
def readsAs (off : BitVec 6) (v : State → Word) : Prop :=
  ∀ (s : State) (rest : List Turn), s.schedule = .host (.read .word off) :: rest →
    step s = .next { s with schedule := rest, replies := s.replies ++ [.word (v s)] }

/-- A 32-bit host write at an offset while BUSY = 0 has the effect f. -/
def writesIdle (off : BitVec 6) (f : Word → State → State) : Prop :=
  ∀ (s : State) (v : Word) (rest : List Turn), s.schedule = .host (.write .word off v) :: rest →
    s.status.busy = false → step s = .next (f v { s with schedule := rest })

/-- A 32-bit host write at an offset while BUSY = 1 has the effect f. -/
def writesBusy (off : BitVec 6) (f : Word → State → State) : Prop :=
  ∀ (s : State) (v : Word) (rest : List Turn), s.schedule = .host (.write .word off v) :: rest →
    s.status.busy = true → step s = .next (f v { s with schedule := rest })

end Sys2Proof.Machine
end

