-- ==== Sys2Proof/Certificates/Slice0/Obligations.lean ====
section
/-! DEFINITION. The statements for the provers. Each docstring names the rule of spec/ it formalises. The helper terms
(State.normalEnd, State.errorEnd, exactOutput, readsAs and so on) are in Sys2Proof/Safety.lean. -/

open Sys2Proof Sys2Proof.Machine

/-! ## Encoding -/

/-- Words of the opcode map (30_encoding.md R65) and of 95_test_vectors.md L2.1, written out, decode to the commands
they stand for; illegal ones are refused by name. -/
def Obligations.OpcodeWordsDecode : Prop :=
  decode 0x00000001 = .ok .ispow2 ∧ decode 0x00000002 = .ok .findmsb ∧ decode 0x00000003 = .ok .dilate ∧
  decode 0x00000004 = .ok .bitrev ∧ decode 0x00000005 = .ok .xoril ∧ decode 0x00000006 = .ok (.bayer 0) ∧
  decode 0x00001006 = .ok (.bayer 16) ∧ decode 0x00001F07 = .ok (.quant 31) ∧ decode 0x00000008 = .ok .pass ∧
  decode 0x00000000 = .error .unassignedOp ∧ decode 0x00000009 = .error .unassignedOp ∧
  decode 0x00000101 = .error .orderOnPlainCommand ∧ decode 0x00002006 = .error .reservedBits

/-- 30_encoding.md R65: a word decodes to a command exactly when (w & mask) = match for its row; the order of BAYER
and QUANT is bits [12:8]. -/
def Obligations.DecodeByMaskAndMatch : Prop :=
  ∀ w : Word,
    (decode w = .ok .ispow2 ↔ w &&& 0xFFFFFFFF = 0x00000001) ∧
    (decode w = .ok .findmsb ↔ w &&& 0xFFFFFFFF = 0x00000002) ∧
    (decode w = .ok .dilate ↔ w &&& 0xFFFFFFFF = 0x00000003) ∧
    (decode w = .ok .bitrev ↔ w &&& 0xFFFFFFFF = 0x00000004) ∧
    (decode w = .ok .xoril ↔ w &&& 0xFFFFFFFF = 0x00000005) ∧
    (∀ k, decode w = .ok (.bayer k) ↔ w &&& 0xFFFFE0FF = 0x00000006 ∧ k = w.toNat / 2 ^ 8 % 2 ^ 5) ∧
    (∀ k, decode w = .ok (.quant k) ↔ w &&& 0xFFFFE0FF = 0x00000007 ∧ k = w.toNat / 2 ^ 8 % 2 ^ 5) ∧
    (decode w = .ok .pass ↔ w &&& 0xFFFFFFFF = 0x00000008)

/-- Decoding the encoding of a well-formed command gives it back (R59, R62, R65, R66, R71). -/
def Obligations.EncodedCommandDecodes : Prop :=
  ∀ i : Instr, WellFormed i → decode (encode i) = .ok i

/-- Each legal word has one meaning: what it decodes to is well-formed and encodes to that word (R59, R65, R66). -/
def Obligations.DecodedWordEncodesBack : Prop :=
  ∀ (w : Word) (i : Instr), decode w = .ok i → WellFormed i ∧ encode i = w

/-- 30_encoding.md R67: which words are illegal, that the core ends them with ILLEGAL, that 70 words are legal, and
that the 30 of them with an order of 17 to 31 end in ORDER. -/
def Obligations.IllegalWordsAreExactlyThese : Prop :=
  (∀ w : Word, (∃ r, decode w = .error r) ↔
    (w.toNat / 2 ^ 13 ≠ 0 ∨ w.toNat % 2 ^ 8 = 0 ∨ 9 ≤ w.toNat % 2 ^ 8 ∨
      (w.toNat % 2 ^ 8 ∈ [1, 2, 3, 4, 5, 8] ∧ w.toNat / 2 ^ 8 % 2 ^ 5 ≠ 0))) ∧
  (∀ s : State, s.status.busy = true → (∃ r, decode s.pend = .error r) →
    coreStep s = .next (s.errorEnd .illegal)) ∧
  (∃ l : List Word, l.Nodup ∧ l.length = 70 ∧ (∀ w, w ∈ l ↔ ∃ i, decode w = .ok i) ∧
    l.countP (fun w => decide (17 ≤ w.toNat / 2 ^ 8 % 2 ^ 5)) = 30) ∧
  (∀ (s : State) (i : Instr), s.status.busy = true → decode s.pend = .ok i → 17 ≤ s.pend.toNat / 2 ^ 8 % 2 ^ 5 →
    coreStep s = .next (s.errorEnd .order))

/-! ## The step -/

/-- 10_state.md R39, 30_encoding.md R66: on the core's turn, while BUSY = 1, a step is exec of the command PEND
decodes to, in the state without the turn taken. An empty schedule gives the core its turn (log entry 4). -/
def Obligations.StepRunsDecodedCommand : Prop :=
  ∀ (s : State) (i : Instr), s.status.busy = true → decode s.pend = .ok i →
    (s.schedule = [] → step s = exec i s) ∧
    (∀ rest, s.schedule = .core :: rest → step s = exec i { s with schedule := rest })

/-- 30_encoding.md R66, R67, 60_exceptions.md R110: on the core's turn, while BUSY = 1, an illegal word in PEND ends
the command with ILLEGAL. -/
def Obligations.StepOnIllegalWordRaisesIllegal : Prop :=
  ∀ (s : State) (r : IllegalWord), s.status.busy = true → decode s.pend = .error r →
    (s.schedule = [] → step s = .next (s.errorEnd .illegal)) ∧
    (∀ rest, s.schedule = .core :: rest →
      step s = .next (State.errorEnd { s with schedule := rest } .illegal))

/-- The model's own choice (log entry 7): 10_state.md R39 gives the idle core no step, and a core's turn while BUSY = 0
answers the same state, the turn apart; an empty schedule gives the core its turn (log entry 4). It adds no behaviour
to 60_exceptions.md R125, by which idle keeps everything. -/
def Obligations.IdleCoreChangesNothing : Prop :=
  ∀ s : State, s.status.busy = false →
    (s.schedule = [] → step s = .next s) ∧
    (∀ rest, s.schedule = .core :: rest → step s = .next { s with schedule := rest })

/-- The model's convention of log entry 11: after withFetchWord, the very next step runs the command of that word, in
the state in which the word has just been accepted (10_state.md R35) with nothing left of an earlier PASS. -/
def Obligations.FetchWordStepRunsCommand : Prop :=
  ∀ (s : State) (nbits w : Nat) (i : Instr), decodeTableWord nbits w = some i →
    step (s.withFetchWord nbits w) =
      exec i { s with
        pend := BitVec.ofNat 32 (w % 2 ^ nbits)
        todo := []
        ahead := []
        status := { busy := true, done := false, err := false, ovr := s.status.ovr, errcode := none } }

/-! ## The host's register accesses -/

/-- 10_state.md R35: a write of w to CMD while BUSY = 0 accepts the command: PEND, BUSY, DONE, ERR, ERRCODE are set
and OVR and all else is unchanged, whatever w is. R39 and 30_encoding.md R66: the core's later steps decode and execute
it, or raise ILLEGAL; that the very next core step does both is the model's merging of the two steps (log entry 6). -/
def Obligations.CommandWriteWhileIdleAccepts : Prop :=
  let accepted : Word → State → State := fun w s =>
    { s with
      pend := w
      status := { busy := true, done := false, err := false, ovr := s.status.ovr, errcode := none } }
  writesIdle 0x00 accepted ∧
  ∀ (s : State) (w : Word) (rest : List Turn), s.schedule = .host (.write .word 0x00 w) :: .core :: rest →
    s.status.busy = false →
    (∀ i, decode w = .ok i → run 2 s = exec i (accepted w { s with schedule := rest })) ∧
    (∀ r, decode w = .error r → run 2 s = .next ((accepted w { s with schedule := rest }).errorEnd .illegal))

/-- 10_state.md R36: while BUSY = 1 a write to any register but STATUS changes nothing but OVR, which it sets; a write
to STATUS clears OVR exactly when bit 3 is 1; a write to a reserved offset has no effect. -/
def Obligations.WriteWhileBusyOnlySetsOverrun : Prop :=
  (∀ off ∈ ([0x00, 0x08, 0x0C, 0x10, 0x14, 0x18, 0x1C, 0x20, 0x24, 0x28, 0x2C] : List (BitVec 6)),
    writesBusy off fun _ s => { s with status := { s.status with ovr := true } }) ∧
  writesBusy 0x04 (fun v s => { s with status := { s.status with ovr := s.status.ovr && !v.getLsbD 3 } }) ∧
  (∀ off ∈ ([0x30, 0x34, 0x38, 0x3C] : List (BitVec 6)), writesBusy off fun _ s => s)

/-- 10_state.md R37: a write to STATUS only clears OVR by bit 3, BUSY or not; a write to RESULT or ORDER has no effect
while idle and sets OVR while busy; a write to one of the eight read/write registers while idle stores all 32 bits. -/
def Obligations.HostWritesByRegister : Prop :=
  writesIdle 0x04 (fun v s => { s with status := { s.status with ovr := s.status.ovr && !v.getLsbD 3 } }) ∧
  writesBusy 0x04 (fun v s => { s with status := { s.status with ovr := s.status.ovr && !v.getLsbD 3 } }) ∧
  writesIdle 0x10 (fun _ s => s) ∧ writesIdle 0x24 (fun _ s => s) ∧
  writesBusy 0x10 (fun _ s => { s with status := { s.status with ovr := true } }) ∧
  writesBusy 0x24 (fun _ s => { s with status := { s.status with ovr := true } }) ∧
  writesIdle 0x08 (fun v s => { s with opa := v }) ∧ writesIdle 0x0C (fun v s => { s with opb := v }) ∧
  writesIdle 0x14 (fun v s => { s with width := v }) ∧ writesIdle 0x18 (fun v s => { s with height := v }) ∧
  writesIdle 0x1C (fun v s => { s with channels := v }) ∧ writesIdle 0x20 (fun v s => { s with colors := v }) ∧
  writesIdle 0x28 (fun v s => { s with srcBase := v }) ∧ writesIdle 0x2C (fun v s => { s with dstBase := v })

/-- 10_state.md R14, R15, R38: a 32-bit read at a register's offset gives its current value, BUSY or not, and has no
side effect; CMD reads 0. -/
def Obligations.HostReadsReturnRegisters : Prop :=
  readsAs 0x00 (fun _ => 0) ∧ readsAs 0x04 (·.status.word) ∧ readsAs 0x08 (·.opa) ∧ readsAs 0x0C (·.opb) ∧
  readsAs 0x10 (·.result) ∧ readsAs 0x14 (·.width) ∧ readsAs 0x18 (·.height) ∧ readsAs 0x1C (·.channels) ∧
  readsAs 0x20 (·.colors) ∧ readsAs 0x24 (·.order.setWidth 32) ∧ readsAs 0x28 (·.srcBase) ∧ readsAs 0x2C (·.dstBase)

/-- 10_state.md R32: reserved offsets read 0 and ignore writes, busy or not; the reserved bits of STATUS and ORDER read
0, and writing them has no effect. -/
def Obligations.ReservedOffsetsAndBits : Prop :=
  (∀ off ∈ ([0x30, 0x34, 0x38, 0x3C] : List (BitVec 6)),
    readsAs off (fun _ => 0) ∧ writesIdle off (fun _ s => s) ∧ writesBusy off (fun _ s => s)) ∧
  (∀ (s : State) (n : Nat), 8 ≤ n → (readReg .status s).getLsbD n = false) ∧
  (∀ (s : State) (n : Nat), 5 ≤ n → (readReg .order s).getLsbD n = false) ∧
  (∀ (s : State) (v : Word), hostStep (.write .word 0x04 v) s = hostStep (.write .word 0x04 (v &&& 0xFF)) s) ∧
  (∀ (s : State) (v : Word), hostStep (.write .word 0x24 v) s = hostStep (.write .word 0x24 (v &&& 0x1F)) s)

/-- 20_memory.md R47 (its first two points): an access in the window of another width than 32 bits, or at an offset that
is not a multiple of 4, reads 0 and writes nothing: no command, no OVR. -/
def Obligations.NarrowOrMisalignedAccessDoesNothing : Prop :=
  ∀ (s : State) (w : AccessWidth) (off : BitVec 6) (v : Word), w ≠ .word ∨ off.toNat % 4 ≠ 0 →
    hostStep (.read w off) s = .next { s with replies := s.replies ++ [.word 0] } ∧
    hostStep (.write w off v) s = .next s

/-- 10_state.md R16: the layout of STATUS, its value after reset, the legal combinations of BUSY, DONE and ERR with
ERRCODE ≠ 0 exactly when ERR = 1, kept by every step, and bit 3 as the only writable bit (write 1 to clear). -/
def Obligations.StatusLayoutAndLegalCombinations : Prop :=
  (∀ st : Status, st.word.getLsbD 0 = st.busy ∧ st.word.getLsbD 1 = st.done ∧ st.word.getLsbD 2 = st.err ∧
    st.word.getLsbD 3 = st.ovr ∧ st.word.extractLsb' 4 4 = st.errcodeBits ∧ st.word.toNat < 2 ^ 8) ∧
  State.reset.status.word = 0 ∧
  (∀ st : Status, st.legal = true ↔
    ((st.busy, st.done, st.err) = (false, false, false) ∨ (st.busy, st.done, st.err) = (true, false, false) ∨
      (st.busy, st.done, st.err) = (false, true, false) ∨ (st.busy, st.done, st.err) = (false, false, true)) ∧
    (st.errcodeBits ≠ 0 ↔ st.err = true)) ∧
  State.reset.status.legal = true ∧
  (∀ s t : State, s.status.legal = true → step s = .next t → t.status.legal = true) ∧
  (∀ (s : State) (v : Word), hostStep (.write .word 0x04 v) s =
    .next { s with status := { s.status with ovr := s.status.ovr && !v.getLsbD 3 } })

/-- 60_exceptions.md R106: the codes of the eight errors, and 0 for none. -/
def Obligations.ErrorCodesAreNumbered : Prop :=
  [CmdError.illegal, .shape, .size, .order, .param, .zero, .range, .overlap].map CmdError.code =
    [1, 2, 3, 4, 5, 6, 7, 8] ∧
  (∀ st : Status, st.errcode = none → st.errcodeBits = 0) ∧
  ∀ (s : State) (e : CmdError), (raiseError e s).status.errcodeBits = e.code

/-! ## Reset -/

/-- 70_reset_and_hazards.md R127, with R128 and R129 (sample memory kept, no error recorded): reset sets every register
and all hidden state to 0 or empty. The model's own fields are kept (log entries 8 and 4), but for the record of the
races of the PASS that is abandoned (log entry 5). -/
def Obligations.ResetInputClearsRegisters : Prop :=
  ∀ (s : State) (rest : List Turn), s.schedule = .host .reset :: rest →
    step s = .next
      { status := { busy := false, done := false, err := false, ovr := false, errcode := none }
        opa := 0, opb := 0, result := 0, width := 0, height := 0, channels := 0, colors := 0, order := 0
        srcBase := 0, dstBase := 0, pend := 0, todo := [], kReg := 0
        mem := s.mem, memLast := s.memLast, errLog := s.errLog, schedule := rest, picks := s.picks
        draws := s.draws, replies := s.replies, ahead := [] }

/-- 10_state.md R40: every register and all hidden state after reset is 0 or empty; no byte of sample memory has a value
of its own (R129). -/
def Obligations.PowerOnStateMatchesResetTable : Prop :=
  (∀ off : BitVec 6, busRead .word off State.reset = 0) ∧
  State.reset.pend = 0 ∧ State.reset.todo = [] ∧ State.reset.kReg = 0 ∧
  (∀ a, State.reset.mem.cell a = none)

/-- 70_reset_and_hazards.md R130: after reset BDC is idle and runs nothing until CMD is written; a PASS then ends with
SIZE, a QUANT of a legal order with PARAM, and a BAYER of a legal order with RESULT 0. Order k of 17 to 31 is R90's
and R79's ORDER. -/
def Obligations.CommandsRightAfterReset : Prop :=
  ∀ s : State,
    (let r := { assertReset s with schedule := [] }
     r.status.busy = false ∧ r.status.done = false ∧ r.status.err = false ∧ step r = .next r) ∧
    (let r := { assertReset s with schedule := [cmd .pass, .core] }
     ∃ t, run 2 r = .next t ∧ t.status.word = 0x00000034) ∧
    (∀ k ≤ 16, let r := { assertReset s with schedule := [cmd (.quant k), .core] }
     ∃ t, run 2 r = .next t ∧ t.status.word = 0x00000054) ∧
    (∀ k ≤ 16, let r := { assertReset s with schedule := [cmd (.bayer k), .core] }
     ∃ t, run 2 r = .next t ∧ t.status.word = 0x00000002 ∧ t.result = 0)

/-! ## BitOps -/

/-- 40_bitops.md R74: ISPOW2 gives 1 exactly when OPA has one set bit, else 0 (0 for OPA = 0), ends normally and changes
nothing else. -/
def Obligations.Ispow2TestsOneSetBit : Prop :=
  decode 0x00000001 = .ok .ispow2 ∧
  ∀ s : State, ∃ r : Word, exec .ispow2 s = .next (s.normalEnd r) ∧ (r = 0 ∨ r = 1) ∧
    (r = 1 ↔ ∃ n < 32, s.opa.toNat = 2 ^ n)

/-- 40_bitops.md R75: FINDMSB gives the largest n with bit n of OPA set, ends normally and changes nothing else; OPA = 0
ends with ZERO, RESULT unchanged. -/
def Obligations.FindmsbGivesHighestSetBit : Prop :=
  decode 0x00000002 = .ok .findmsb ∧
  ∀ s : State,
    (s.opa = 0 → exec .findmsb s = .next (s.errorEnd .zero)) ∧
    (s.opa ≠ 0 → ∃ n < 32, exec .findmsb s = .next (s.normalEnd (BitVec.ofNat 32 n)) ∧
      s.opa.getLsbD n = true ∧ ∀ m, n < m → s.opa.getLsbD m = false)

/-- 40_bitops.md R76: DILATE puts bit b of OPA[15:0] at bit 2b and 0 at bit 2b + 1, ends normally and changes nothing
else; on values below 2^16 it is injective. -/
def Obligations.DilateSpreadsLowBits : Prop :=
  decode 0x00000003 = .ok .dilate ∧
  (∀ s : State, ∃ r : Word, exec .dilate s = .next (s.normalEnd r) ∧
    ∀ b < 16, r.getLsbD (2 * b) = s.opa.getLsbD b ∧ r.getLsbD (2 * b + 1) = false) ∧
  (∀ v w : Word, v.toNat < 2 ^ 16 → w.toNat < 2 ^ 16 → dilate v = dilate w → v = w)

/-- 40_bitops.md R77: BITREV puts bit n of OPA at bit 31 - n, ends normally and changes nothing else; applied twice it
gives the operand back. -/
def Obligations.BitrevReversesWord : Prop :=
  decode 0x00000004 = .ok .bitrev ∧
  (∀ s : State, ∃ r : Word, exec .bitrev s = .next (s.normalEnd r) ∧
    ∀ n < 32, r.getLsbD (31 - n) = s.opa.getLsbD n) ∧
  (∀ v : Word, bitReverse (bitReverse v) = v)

/-! ## The Bayer generator -/

/-- 41_bayer.md R78: XORIL puts (i xor j)[b] at bit 2b and j[b] at bit 2b + 1, for i = OPA and j = OPB, b in 0 to 15;
it ends normally and changes nothing else. -/
def Obligations.XorilInterleavesCoordinates : Prop :=
  decode 0x00000005 = .ok .xoril ∧
  ∀ s : State, ∃ r : Word, exec .xoril s = .next (s.normalEnd r) ∧
    ∀ b < 16, r.getLsbD (2 * b) = (s.opa ^^^ s.opb).getLsbD b ∧ r.getLsbD (2 * b + 1) = s.opb.getLsbD b

/-- 41_bayer.md R79: BAYER k gives the reversed interleave of OPA and OPB shifted right by 32 - 2k, 0 for k = 0, ends
normally and changes nothing else; k > 16 ends with ORDER, RESULT unchanged. -/
def Obligations.BayerCommandResult : Prop :=
  (∀ k < 32, decode (BitVec.ofNat 32 (k * 2 ^ 8 + 0x06)) = .ok (.bayer k)) ∧
  ∀ (s : State) (k : Nat),
    (16 < k → exec (.bayer k) s = .next (s.errorEnd .order)) ∧
    (k = 0 → exec (.bayer k) s = .next (s.normalEnd 0)) ∧
    (1 ≤ k → k ≤ 16 → exec (.bayer k) s =
      .next (s.normalEnd (bitReverse (xorInterleave s.opa s.opb) >>> (32 - 2 * k))))

/-- 41_bayer.md R80: the closed form of the coefficient, bit by bit of the coordinates. -/
def Obligations.BayerClosedForm : Prop :=
  ∀ (i j : Word) (k : Nat), 1 ≤ k → k ≤ 16 →
    (bayerCoef i j k).toNat =
      ∑ b ∈ Finset.range k, (((i ^^^ j).getLsbD b).toNat * 2 ^ (2 * k - 1 - 2 * b) +
        (j.getLsbD b).toNat * 2 ^ (2 * k - 2 - 2 * b))

/-- 41_bayer.md R81: every coefficient is below 4^k, and on the 2^k by 2^k coordinates each value below 4^k occurs
exactly once. -/
def Obligations.BayerIsBijection : Prop :=
  ∀ k ≤ 16,
    (∀ i j : Word, (bayerCoef i j k).toNat < 4 ^ k) ∧
    (∀ n < 4 ^ k, ∃! p : Nat × Nat, p.1 < 2 ^ k ∧ p.2 < 2 ^ k ∧
      (bayerCoef (BitVec.ofNat 32 p.1) (BitVec.ofNat 32 p.2) k).toNat = n)

/-- 41_bayer.md R82: the recursive construction with the quadrant ranks 0, 2, 3, 1 (columns i, rows j). -/
def Obligations.BayerRecursiveQuadrants : Prop :=
  let q : Nat → Nat → Nat := fun a b => if a = 0 then (if b = 0 then 0 else 3) else (if b = 0 then 2 else 1)
  let coef : Nat → Nat → Nat → Nat := fun i j k => (bayerCoef (BitVec.ofNat 32 i) (BitVec.ofNat 32 j) k).toNat
  (∀ i j, coef i j 0 = 0) ∧
  ∀ k, 1 ≤ k → k ≤ 16 → ∀ i < 2 ^ k, ∀ j < 2 ^ k,
    coef i j k = 4 * coef (i % 2 ^ (k - 1)) (j % 2 ^ (k - 1)) (k - 1) + q (i / 2 ^ (k - 1)) (j / 2 ^ (k - 1))

/-- 41_bayer.md R83: coordinates at or above 2^k tile the matrix, and BAYER raises no error for them. -/
def Obligations.BayerTilesCoordinates : Prop :=
  ∀ (k : Nat), k ≤ 16 →
    (∀ i j : Word, bayerCoef i j k =
      bayerCoef (BitVec.ofNat 32 (i.toNat % 2 ^ k)) (BitVec.ofNat 32 (j.toNat % 2 ^ k)) k) ∧
    (∀ s : State, exec (.bayer k) s = .next (s.normalEnd
      (bayerCoef (BitVec.ofNat 32 (s.opa.toNat % 2 ^ k)) (BitVec.ofNat 32 (s.opb.toNat % 2 ^ k)) k)))

/-! ## The quantizer -/

/-- 42_quantizer.md R90: QUANT k quantizes OPA[7:0] against OPB with N = COLORS, ends normally and changes nothing else;
k > 16 ends with ORDER, and otherwise N < 2 with PARAM, RESULT unchanged. -/
def Obligations.QuantCommandResult : Prop :=
  (∀ k < 32, decode (BitVec.ofNat 32 (k * 2 ^ 8 + 0x07)) = .ok (.quant k)) ∧
  ∀ (s : State) (k : Nat),
    (16 < k → exec (.quant k) s = .next (s.errorEnd .order)) ∧
    (k ≤ 16 → s.colors.toNat < 2 → exec (.quant k) s = .next (s.errorEnd .param)) ∧
    (k ≤ 16 → 2 ≤ s.colors.toNat → exec (.quant k) s =
      .next (s.normalEnd (BitVec.ofNat 32 (quantize (s.opa.toNat % 2 ^ 8) s.opb.toNat k s.colors.toNat))))

/-- 42_quantizer.md R85 to R89: the integer rule gives the output of the source's rule over exact rationals, halves
rounded up. -/
def Obligations.QuantizeIsExactRationalRule : Prop :=
  ∀ s coef k n : Nat, s ≤ 255 → coef < 2 ^ 32 → k ≤ 16 → 2 ≤ n → n < 2 ^ 32 →
    (quantize s coef k n : Int) = exactOutput s coef k n

/-- 42_quantizer.md R91: the bounds of every intermediate and of the result; RESULT[31:8] = 0 after QUANT. -/
def Obligations.QuantizeWidths : Prop :=
  (∀ s coef k n : Nat, s ≤ 255 → coef < 2 ^ 32 → k ≤ 16 → 2 ≤ n → n < 2 ^ 32 →
    s * (n - 1) < 2 ^ 40 ∧ s * (n - 1) % 255 * 4 ^ k < 2 ^ 40 ∧ coef * 255 < 2 ^ 40 ∧
    quantLevel s coef k n ≤ n - 1 ∧ 2 * quantLevel s coef k n * 255 + (n - 1) ≤ 511 * (n - 1) ∧
    511 * (n - 1) < 2 ^ 41 ∧ quantize s coef k n ≤ 255) ∧
  (∀ (s : State) (k : Nat), k ≤ 16 → 2 ≤ s.colors.toNat →
    ∃ t, exec (.quant k) s = .next t ∧ ∀ n, 8 ≤ n → t.result.getLsbD n = false)

/-- 42_quantizer.md R92: black stays 0 and white stays 255. -/
def Obligations.QuantizeExtremes : Prop :=
  ∀ coef k n : Nat, 2 ≤ n → k ≤ 16 → quantize 0 coef k n = 0 ∧ quantize 255 coef k n = 255

/-- 42_quantizer.md R93: the comparison never meets equality, so choosing qmax on "at least" gives the same level. -/
def Obligations.QuantizeNeverTies : Prop :=
  ∀ s coef k n : Nat,
    (s * (n - 1) % 255 ≠ 0 → s * (n - 1) % 255 * 4 ^ k ≠ coef * 255) ∧
    quantLevel s coef k n =
      (if s * (n - 1) % 255 = 0 then s * (n - 1) / 255
       else if s * (n - 1) % 255 * 4 ^ k ≥ coef * 255 then s * (n - 1) / 255 + 1 else s * (n - 1) / 255)

/-- 42_quantizer.md R94: exact levels whatever coef and k are, N = 256 the identity, monotone in the sample, antitone in
the coefficient, and the output is one of the N levels, one of the two that bracket u. -/
def Obligations.QuantizeLevelsAndMonotone : Prop :=
  (∀ s coef k n : Nat, 2 ≤ n → s * (n - 1) % 255 = 0 →
    quantize s coef k n = (2 * (s * (n - 1) / 255) * 255 + (n - 1)) / (2 * (n - 1))) ∧
  (∀ s coef k : Nat, s ≤ 255 → quantize s coef k 256 = s) ∧
  (∀ s s' coef k n : Nat, 2 ≤ n → s ≤ s' → quantize s coef k n ≤ quantize s' coef k n) ∧
  (∀ s coef coef' k n : Nat, 2 ≤ n → coef ≤ coef' → quantize s coef' k n ≤ quantize s coef k n) ∧
  (∀ s coef k n : Nat, s ≤ 255 → 2 ≤ n → ∃ l ≤ n - 1,
    quantize s coef k n = (2 * l * 255 + (n - 1)) / (2 * (n - 1)) ∧
    (l = s * (n - 1) / 255 ∨ (l = s * (n - 1) / 255 + 1 ∧ s * (n - 1) % 255 ≠ 0)))

/-! ## PASS -/

/-- 43_pass.md R97 and R101: the check step. The first failing check, in the order SHAPE, SIZE, ORDER, PARAM, RANGE,
OVERLAP, ends the command with everything but STATUS unchanged; when all pass, ORDER and K become k and TODO the
indices 0 to S - 1, and nothing else changes. -/
def Obligations.PassCheckStep : Prop :=
  ∀ s : State, s.todo = [] →
    (s.width ≠ s.height → exec .pass s = .next (s.errorEnd .shape)) ∧
    (s.width = s.height → (¬ ∃ k < 32, s.width.toNat = 2 ^ k) → exec .pass s = .next (s.errorEnd .size)) ∧
    ∀ k, s.width = s.height → s.width.toNat = 2 ^ k →
      let samples := s.width.toNat * s.height.toNat * s.channels.toNat
      let bytes := s.memLast.toNat + 1
      (16 < k → exec .pass s = .next (s.errorEnd .order)) ∧
      (k ≤ 16 → s.channels = 0 ∨ s.colors.toNat < 2 → exec .pass s = .next (s.errorEnd .param)) ∧
      (k ≤ 16 → s.channels ≠ 0 → 2 ≤ s.colors.toNat →
        (bytes < s.srcBase.toNat + samples ∨ bytes < s.dstBase.toNat + samples →
          exec .pass s = .next (s.errorEnd .range)) ∧
        (s.srcBase.toNat + samples ≤ bytes → s.dstBase.toNat + samples ≤ bytes →
          (s.srcBase.toNat < s.dstBase.toNat + samples ∧ s.dstBase.toNat < s.srcBase.toNat + samples →
            exec .pass s = .next (s.errorEnd .overlap)) ∧
          (s.dstBase.toNat + samples ≤ s.srcBase.toNat ∨ s.srcBase.toNat + samples ≤ s.dstBase.toNat →
            exec .pass s = .next
              { s with order := BitVec.ofNat 5 k, kReg := BitVec.ofNat 5 k, todo := List.range samples })))

/-- 43_pass.md R98 and R100: a sample step of a running PASS completes: for one index of TODO it stores the quantized
source byte at the destination, takes the index out of TODO, ends the command when TODO is then empty, and changes no
other byte, register or hidden state. The choice it used is gone (log entry 3). Where a race drawn before (20_memory.md
R54, log entry 5) made the core read the source byte earlier, that value is used; where it made the core write the
output earlier, it is not written again. -/
def Obligations.PassSampleStep : Prop :=
  ∀ s : State, PassRunning s → s.todo ≠ [] →
    ∃ idx ∈ s.todo, ∃ t, exec .pass s = .next t ∧
      t = { s with
        mem := t.mem
        todo := s.todo.filter (· != idx)
        ahead := if s.todo.filter (· != idx) = [] then [] else s.ahead.filter (·.1 != idx)
        picks := s.picks.tail
        draws := s.draws + 1
        status := if s.todo.filter (· != idx) = [] then { s.status with busy := false, done := true } else s.status } ∧
      (∀ x < s.width.toNat, ∀ y < s.height.toNat, ∀ c < s.channels.toNat, idx = sampleIndex s x y c →
        (s.ahead.lookup idx = none → t.byteAt (s.dstBase.toNat + idx) = finalByte s s.kReg.toNat x y c) ∧
        (∀ b, s.ahead.lookup idx = some (.read b) → t.byteAt (s.dstBase.toNat + idx) =
          BitVec.ofNat 8 (quantize b.toNat
            (bayerCoef (BitVec.ofNat 32 x) (BitVec.ofNat 32 y) s.kReg.toNat).toNat s.kReg.toNat s.colors.toNat)) ∧
        (s.ahead.lookup idx = some .written →
          t.byteAt (s.dstBase.toNat + idx) = s.byteAt (s.dstBase.toNat + idx))) ∧
      (∀ a, a ≠ s.dstBase.toNat + idx → t.byteAt a = s.byteAt a)

/-- 43_pass.md R99: any index of TODO may be processed next: for each there is a choice with which the next sample step
processes it (the choice is the model's, log entry 3; an output byte a drawn race has put first is already there, log
entry 5). -/
def Obligations.PassAnyIndexMayBeNext : Prop :=
  ∀ (s : State) (idx : Nat), PassRunning s → idx ∈ s.todo →
    ∃ p t, exec .pass { s with picks := p :: s.picks } = .next t ∧ t.todo = s.todo.filter (· != idx) ∧
      t.byteAt (s.dstBase.toNat + idx) =
        (if s.ahead.lookup idx = some .written then s.byteAt (s.dstBase.toNat + idx) else sampleOutput s idx) ∧
      ∀ a, a ≠ s.dstBase.toNat + idx → t.byteAt a = s.byteAt a

/-- 43_pass.md R104 for memory and ORDER, R100 for DONE and the unchanged registers: the state at the end of a PASS that
passes its checks, in every interleaving with host actions that neither write a buffer nor reset, whatever the order
of the samples. -/
def Obligations.PassEndState : Prop :=
  ∀ (s t : State) (n k : Nat), passAccepted s → passError s = none → s.width.toNat = 2 ^ k →
    (∀ turn ∈ s.schedule.take n, turn.harmless s) →
    run n s = .next t → t.status.busy = false → (∀ m < n, ∀ u, run m s = .next u → u.status.busy = true) →
    t.status.done = true ∧ t.status.err = s.status.err ∧ t.order.toNat = k ∧
    (∀ x < s.width.toNat, ∀ y < s.height.toNat, ∀ c < s.channels.toNat,
      t.byteAt (s.dstBase.toNat + sampleIndex s x y c) = finalByte s k x y c) ∧
    (∀ a, ¬ inDest s a → (∀ v, Turn.host (.memWrite a v) ∉ s.schedule.take n) → t.byteAt a = s.byteAt a) ∧
    t.result = s.result ∧ t.opa = s.opa ∧ t.opb = s.opb ∧ t.width = s.width ∧ t.height = s.height ∧
    t.channels = s.channels ∧ t.colors = s.colors ∧ t.srcBase = s.srcBase ∧ t.dstBase = s.dstBase

/-- 70_reset_and_hazards.md R140, when only the core moves: a command that is not PASS, and a PASS that fails a check,
ends in one core step; a PASS that passes its checks ends in exactly 1 + S. R140 counts the decode step apart; the model
merges it into the first execute step (log entry 6). -/
def Obligations.CommandsEndInCountedSteps : Prop :=
  ∀ s : State, s.status.busy = true → s.todo = [] → s.schedule = [] →
    (s.pend ≠ passWord ∨ passError s ≠ none → ∃ t, run 1 s = .next t ∧ t.status.busy = false) ∧
    (s.pend = passWord → passError s = none →
      (∀ m ≤ passSamples s, ∃ u, run m s = .next u ∧ u.status.busy = true) ∧
      ∃ t, run (1 + passSamples s) s = .next t ∧ t.status.busy = false ∧ t.status.done = true)

/-- 20_memory.md R52, 43_pass.md R99 and R103: two PASSes from the same state that process their samples in different
orders, while only the core moves, end in the same state, as data; the model's own choice fields, picks and draws (log
entry 3), are left apart. -/
def Obligations.PassOrderIsUnobservable : Prop :=
  ∀ (s t u : State) (p q : List Nat) (d e : Nat), passAccepted s → passError s = none → s.schedule = [] → s.mem.wf →
    run (1 + passSamples s) { s with picks := p, draws := d } = .next t →
    run (1 + passSamples s) { s with picks := q, draws := e } = .next u →
    { t with picks := [], draws := 0 } = { u with picks := [], draws := 0 }

/-! ## Errors, frames and whole-machine rules -/

/-- 60_exceptions.md R107, R109, R110: a command that ends with an error ends with one of those R107 lists for it, and
leaves everything but STATUS (and the empty TODO and the model's log) as it was. -/
def Obligations.FailedCommandChangesOnlyStatus : Prop :=
  ∀ (i : Instr) (s t : State) (e : CmdError), s.status.errcode = none → exec i s = .next t →
    t.status.errcode = some e → t = s.errorEnd e ∧ e ∈ possibleErrors i

/-- The frame of the seven commands other than PASS (10_state.md R24, 20_memory.md R43): RESULT, STATUS, TODO and the
error log apart, every register and every byte of sample memory reads as before; OVR is kept. -/
def Obligations.RegisterCommandFrame : Prop :=
  ∀ (i : Instr) (s t : State), i ≠ .pass → exec i s = .next t →
    t.opa = s.opa ∧ t.opb = s.opb ∧ t.width = s.width ∧ t.height = s.height ∧ t.channels = s.channels ∧
    t.colors = s.colors ∧ t.order = s.order ∧ t.srcBase = s.srcBase ∧ t.dstBase = s.dstBase ∧ t.pend = s.pend ∧
    t.kReg = s.kReg ∧ t.status.ovr = s.status.ovr ∧ t.memLast = s.memLast ∧ ∀ a, t.byteAt a = s.byteAt a

/-- The state after reset meets the invariant (10_state.md R40). -/
def Obligations.ResetStateMeetsInvariant : Prop := Inv State.reset

/-- Every step keeps the invariant (10_state.md R16, R34, R36; 20_memory.md R43, R45; 43_pass.md R97, R98). -/
def Obligations.StepKeepsInvariant : Prop :=
  ∀ s t : State, Inv s → step s = .next t → Inv t

/-- From a state that meets the invariant every step answers a next state, unless the host reaches past the end of
sample memory (20_memory.md R45, 43_pass.md R100). -/
def Obligations.StepFromInvariantAnswers : Prop :=
  ∀ s : State, Inv s → (nextTurn s).1.inMemory s → ∃ t, step s = .next t

/-- 10_state.md R24: RESULT is 0 after reset and changes only at a reset or at the normal end of a command other than
PASS. -/
def Obligations.ResultWrittenOnlyByResultCommands : Prop :=
  State.reset.result = 0 ∧
  ∀ s t : State, s.status.legal = true → step s = .next t → t.result ≠ s.result →
    (nextTurn s).1 = .host .reset ∨
    ((nextTurn s).1 = .core ∧ s.status.busy = true ∧ (∃ i, decode s.pend = .ok i ∧ i ≠ .pass) ∧
      t.status.busy = false ∧ t.status.done = true ∧ t.status.err = false)

/-- 10_state.md R29: ORDER is 0 after reset, reads as its five bits, and changes only at a reset or in the check step
of a PASS that passes its checks, to FindMSB(WIDTH); no other command reads or writes it. -/
def Obligations.OrderWrittenOnlyByPassingPass : Prop :=
  State.reset.order = 0 ∧
  (∀ s : State, (busRead .word 0x24 s).toNat = s.order.toNat) ∧
  (∀ s t : State, step s = .next t → t.order ≠ s.order →
    (nextTurn s).1 = .host .reset ∨
    ((nextTurn s).1 = .core ∧ s.status.busy = true ∧ decode s.pend = .ok .pass ∧ s.todo = [] ∧
      passError s = none ∧ t.order.toNat = findMSB s.width ∧ t.todo = List.range (passSamples s))) ∧
  (∀ (i : Instr) (s t : State) (o : BitVec 5), i ≠ .pass → exec i s = .next t →
    exec i { s with order := o } = .next { t with order := o })

/-- 10_state.md R36, 43_pass.md R96: the registers a command reads are written by no command, and not at all while BUSY
= 1 except by reset. -/
def Obligations.OperandsConstantDuringCommand : Prop :=
  ∀ s t : State, step s = .next t → (nextTurn s).1 ≠ .host .reset →
    ((nextTurn s).1 = .core ∨ s.status.busy = true) →
    t.opa = s.opa ∧ t.opb = s.opb ∧ t.width = s.width ∧ t.height = s.height ∧ t.channels = s.channels ∧
    t.colors = s.colors ∧ t.srcBase = s.srcBase ∧ t.dstBase = s.dstBase ∧ t.pend = s.pend

/-- 10_state.md R20: OVR is set only by a 32-bit host write to a register other than STATUS while BUSY = 1, and always by
one; it is cleared only by a write to STATUS with bit 3 = 1 or by reset, and always by one. A step that sets it leaves
ERR and ERRCODE as they were. -/
def Obligations.OverrunChangesOnlyAsStated : Prop :=
  ∀ s t : State, step s = .next t →
    (s.status.ovr = false → t.status.ovr = true → s.status.busy = true ∧
      t.status.err = s.status.err ∧ t.status.errcode = s.status.errcode ∧
      ∃ off v, (nextTurn s).1 = .host (.write .word off v) ∧ off ≠ 0x04 ∧ off.toNat % 4 = 0 ∧ off.toNat ≤ 0x2C) ∧
    (∀ off v, (nextTurn s).1 = .host (.write .word off v) → s.status.busy = true → off ≠ 0x04 →
      off.toNat % 4 = 0 → off.toNat ≤ 0x2C → t.status.ovr = true) ∧
    (s.status.ovr = true → t.status.ovr = false →
      (nextTurn s).1 = .host .reset ∨
      ∃ v : Word, (nextTurn s).1 = .host (.write .word 0x04 v) ∧ v.getLsbD 3 = true) ∧
    ((nextTurn s).1 = .host .reset ∨
      (∃ v : Word, (nextTurn s).1 = .host (.write .word 0x04 v) ∧ v.getLsbD 3 = true) → t.status.ovr = false)

/-- 20_memory.md R43, R52, 60_exceptions.md R125, 70_reset_and_hazards.md R129: a byte of sample memory changes only in a
sample step of a PASS, at the destination address of an index of TODO, by a host write to it, or, at a destination
address of a running PASS, when a host read of it is drawn to come after the core's write (R54, log entry 5). -/
def Obligations.SampleMemoryWrittenOnlyByPassAndHost : Prop :=
  ∀ (s t : State) (a : Nat), step s = .next t → t.byteAt a ≠ s.byteAt a →
    ((nextTurn s).1 = .core ∧ s.status.busy = true ∧ decode s.pend = .ok .pass ∧
      ∃ idx ∈ s.todo, a = s.dstBase.toNat + idx) ∨
    (∃ v, (nextTurn s).1 = .host (.memWrite a v)) ∨
    ((nextTurn s).1 = .host (.memRead a) ∧ s.status.busy = true ∧ decode s.pend = .ok .pass ∧ inDest s a)

/-- 60_exceptions.md R115 and R117: no step takes an entry out of the error log; one entry is added exactly when the
core's turn ends a command with an error, with its code and command word. -/
def Obligations.ErrorLogRecordsEveryError : Prop :=
  ∀ s t : State, s.status.legal = true → step s = .next t →
    (t.errLog = s.errLog ∧
      ((nextTurn s).1 = .core → s.status.busy = true → t.status.err = false ∧ t.status.errcode = none)) ∨
    (∃ e, (nextTurn s).1 = .core ∧ s.status.busy = true ∧ t.errLog = s.errLog ++ [{ code := e, command := s.pend }] ∧
      t = (nextTurn s).2.errorEnd e)

/-- 70_reset_and_hazards.md R128, with R127 for the registers: a reset after any turns of a running PASS that keep the
host duties leaves each destination byte either as it was or final; the final ones are those of as many indices as
sample steps were taken, and possibly of indices whose output a drawn race with a host read of the destination put
first (20_memory.md R54, log entry 5). Every other byte is as it was or as the host wrote it, every register reads 0,
neither DONE nor ERR is set, and the model's error log is kept and gains nothing (log entry 8). -/
def Obligations.ResetDuringPassLeavesOldOrFinalBytes : Prop :=
  ∀ (s : State) (turns : List Turn) (k : Nat), passAccepted s → passError s = none → s.width.toNat = 2 ^ k →
    (∀ turn ∈ turns, turn.harmless s ∧ turn.inMemory s) → turns.count .core ≤ passSamples s →
    s.schedule = turns ++ [.host .reset] →
    ∃ (t : State) (processed : List Nat), run (turns.length + 1) s = .next t ∧
      processed.Nodup ∧ (∀ idx ∈ processed, idx < passSamples s) ∧ turns.count .core - 1 ≤ processed.length ∧
      ((∀ a, Turn.host (.memRead a) ∈ turns → ¬ inDest s a) → processed.length = turns.count .core - 1) ∧
      (∀ x < s.width.toNat, ∀ y < s.height.toNat, ∀ c < s.channels.toNat,
        t.byteAt (s.dstBase.toNat + sampleIndex s x y c) =
          if sampleIndex s x y c ∈ processed then finalByte s k x y c
          else s.byteAt (s.dstBase.toNat + sampleIndex s x y c)) ∧
      (∀ a, ¬ inDest s a → (∀ v, Turn.host (.memWrite a v) ∉ turns) → t.byteAt a = s.byteAt a) ∧
      (∀ off : BitVec 6, busRead .word off t = 0) ∧ t.pend = 0 ∧ t.kReg = 0 ∧ t.todo = [] ∧
      t.status.done = false ∧ t.status.err = false ∧ t.errLog = s.errLog

/-- 70_reset_and_hazards.md R128: any proper subset of the indices may be the processed set: with the right choices, the
core steps before the reset process exactly those. -/
def Obligations.ResetMayFindAnySubsetProcessed : Prop :=
  ∀ (s : State) (processed : List Nat), passAccepted s → passError s = none → processed.Nodup →
    (∀ idx ∈ processed, idx < passSamples s) → processed.length < passSamples s →
    ∃ (p : List Nat) (t : State),
      run (processed.length + 2)
        { s with picks := p, schedule := List.replicate (processed.length + 1) .core ++ [.host .reset] } = .next t ∧
      ∀ idx < passSamples s, t.byteAt (s.dstBase.toNat + idx) =
        if idx ∈ processed then sampleOutput { s with kReg := BitVec.ofNat 5 (findMSB s.width) } idx
        else s.byteAt (s.dstBase.toNat + idx)

/-- 20_memory.md R42, R48, R54 (log entry 9): outside the buffers of a running PASS, and in its source range for a read,
a host read of a byte of sample memory gives the byte and changes nothing else, and a host write changes that byte
alone; past the end of sample memory there is no byte and the model stops. -/
def Obligations.HostMemoryAccess : Prop :=
  ∀ (s : State) (a : Nat) (v : Byte) (rest : List Turn),
    (s.schedule = .host (.memRead a) :: rest → a ≤ s.memLast.toNat →
      s.status.busy = false ∨ s.pend ≠ passWord ∨ passError s ≠ none ∨ ¬ inDest s a →
      step s = .next { s with schedule := rest, replies := s.replies ++ [.byte (s.byteAt a)] }) ∧
    (s.schedule = .host (.memWrite a v) :: rest → a ≤ s.memLast.toNat →
      s.status.busy = false ∨ s.pend ≠ passWord ∨ passError s ≠ none ∨ (¬ inSource s a ∧ ¬ inDest s a) →
      ∃ t, step s = .next t ∧ t = { s with schedule := rest, mem := t.mem } ∧
        ∀ b, t.byteAt b = if b = a then v else s.byteAt b) ∧
    (s.memLast.toNat < a → s.schedule = .host (.memRead a) :: rest ∨ s.schedule = .host (.memWrite a v) :: rest →
      step s = .fault (.noSampleByte a))

/-- 20_memory.md R48, R53, R54 (log entry 5), over all states: what a host access to a byte of sample memory returns and
leaves. A read returns the byte, or, at a destination byte that a running PASS has still to process and to write, the
final byte, which follows from the source byte the core has already read, or from the current one where it has read
none; the byte then holds what was returned. A write leaves the byte written. No other byte, no register and no hidden
state of the spec changes. -/
def Obligations.HostAccessReturnsOldOrFinalByte : Prop :=
  ∀ (s t : State) (a : Nat), step s = .next t →
    ((nextTurn s).1 = .host (.memRead a) → ∃ b : Byte, t.replies = s.replies ++ [.byte b] ∧ t.byteAt a = b ∧
      (b = s.byteAt a ∨
        s.status.busy = true ∧ s.pend = passWord ∧ passError s = none ∧
          ∃ idx < passSamples s, (s.todo = [] ∨ idx ∈ s.todo) ∧ a = s.dstBase.toNat + idx ∧
            ∃ x, b = outputFor s idx x ∧
              ((s.ahead.lookup idx = none ∧ x = s.byteAt (s.srcBase.toNat + idx)) ∨
                s.ahead.lookup idx = some (.read x)))) ∧
    (∀ v, (nextTurn s).1 = .host (.memWrite a v) → t.replies = s.replies ∧ t.byteAt a = v) ∧
    ((nextTurn s).1 = .host (.memRead a) ∨ (∃ v, (nextTurn s).1 = .host (.memWrite a v)) →
      (∀ b, b ≠ a → t.byteAt b = s.byteAt b) ∧
      t = { s with
        schedule := s.schedule.tail, mem := t.mem, ahead := t.ahead, picks := t.picks, draws := t.draws
        replies := t.replies })

/-- 20_memory.md R54, for one host access while BUSY = 1, wherever among the core steps of the PASS it falls and however
many samples there are: after a write of a source byte the output follows from the old or the written value; a read of
a destination byte returns the byte from before the PASS or the final one; a destination byte written ends as the
host's value or the core's. No other outcome occurs, and each occurs for some choices (log entries 3 and 5). -/
def Obligations.BufferRacesEndEitherWay : Prop :=
  ∀ (s : State) (idx n : Nat) (v : Byte), passAccepted s → passError s = none → idx < passSamples s →
    n ≤ passSamples s →
    let source := s.srcBase.toNat + idx
    let dest := s.dstBase.toNat + idx
    let old := outputFor s idx (s.byteAt source)
    let raced : HostAction → List Nat → State := fun access p =>
      { s with picks := p, schedule := List.replicate n .core ++ [.host access] }
    let ends : HostAction → List Nat → State → Prop := fun access p t =>
      run (passSamples s + 2) (raced access p) = .next t ∧ t.status.busy = false ∧ t.status.done = true
    ((∀ p, ∃ t, ends (.memWrite source v) p t ∧ t.byteAt source = v ∧
        (t.byteAt dest = old ∨ t.byteAt dest = outputFor s idx v)) ∧
      (∃ p t, ends (.memWrite source v) p t ∧ t.byteAt dest = old) ∧
      (∃ p t, ends (.memWrite source v) p t ∧ t.byteAt dest = outputFor s idx v)) ∧
    ((∀ p, ∃ t b, ends (.memRead dest) p t ∧ t.replies = s.replies ++ [.byte b] ∧ t.byteAt dest = old ∧
        (b = s.byteAt dest ∨ b = old)) ∧
      (∃ p t, ends (.memRead dest) p t ∧ t.replies = s.replies ++ [.byte (s.byteAt dest)]) ∧
      (∃ p t, ends (.memRead dest) p t ∧ t.replies = s.replies ++ [.byte old])) ∧
    ((∀ p, ∃ t, ends (.memWrite dest v) p t ∧ (t.byteAt dest = v ∨ t.byteAt dest = old)) ∧
      (∃ p t, ends (.memWrite dest v) p t ∧ t.byteAt dest = v) ∧
      (∃ p t, ends (.memWrite dest v) p t ∧ t.byteAt dest = old))
end

