-- ==== Sys2Proof/Laws/Bits.lean ====
section
/-! SUPPORT. The bit functions, bit by bit (spec 40_bitops.md, 41_bayer.md). -/

namespace Sys2Proof.Machine

@[simp] theorem getLsbD_wordOfBits (f : Nat → Bool) (n : Nat) :
    (wordOfBits f).getLsbD n = (decide (n < 32) && f n) := by
  unfold wordOfBits
  by_cases h : n < 32
  · rw [BitVec.getLsbD_eq_getElem h, BitVec.getElem_ofFnLE]
    simp [h]
  · rw [BitVec.getLsbD_of_ge _ _ (by omega)]
    simp [h]

theorem getLsbD_dilate (v : Word) (n : Nat) :
    (dilate v).getLsbD n = (decide (n < 32) && (n % 2 == 0 && v.getLsbD (n / 2))) := by
  simp [dilate]

theorem getLsbD_bitReverse (v : Word) (n : Nat) :
    (bitReverse v).getLsbD n = (decide (n < 32) && v.getLsbD (31 - n)) := by
  simp [bitReverse]

theorem getLsbD_xorInterleave (i j : Word) (n : Nat) :
    (xorInterleave i j).getLsbD n =
      (decide (n < 32) && if n % 2 = 0 then i.getLsbD (n / 2) ^^ j.getLsbD (n / 2) else j.getLsbD (n / 2)) := by
  unfold xorInterleave
  simp only [BitVec.getLsbD_or, BitVec.getLsbD_shiftLeft, getLsbD_dilate, BitVec.getLsbD_xor]
  by_cases hn : n < 32
  · rcases Nat.mod_two_eq_zero_or_one n with h | h
    · have h1 : n < 1 ∨ (n - 1) % 2 = 1 := by omega
      rcases h1 with h1 | h1 <;> simp [hn, h, h1]
    · have h0 : ¬ n < 1 := by omega
      have h1 : (n - 1) % 2 = 0 := by omega
      have h2 : (n - 1) / 2 = n / 2 := by omega
      have h3 : n - 1 < 32 := by omega
      simp [hn, h, h0, h1, h2, h3]
  · simp [hn]

/-- DILATE reads only OPA[15:0] (R76). -/
theorem dilate_low16 (v : Word) : dilate ((v.extractLsb' 0 16).setWidth 32) = dilate v := by
  apply BitVec.eq_of_getLsbD_eq
  intro n hn
  have h : n / 2 < 16 := by omega
  have h' : n / 2 < 32 := by omega
  simp [getLsbD_dilate, h, h']

/-- XORIL reads only OPA[15:0] and OPB[15:0] (R78). -/
theorem xorInterleave_low16 (i j : Word) :
    xorInterleave ((i.extractLsb' 0 16).setWidth 32) ((j.extractLsb' 0 16).setWidth 32) = xorInterleave i j := by
  apply BitVec.eq_of_getLsbD_eq
  intro n hn
  have h : n / 2 < 16 := by omega
  have h' : n / 2 < 32 := by omega
  simp [getLsbD_xorInterleave, h, h']

theorem bayerCoef_low16 (i j : Word) (k : Nat) :
    bayerCoef ((i.extractLsb' 0 16).setWidth 32) ((j.extractLsb' 0 16).setWidth 32) k = bayerCoef i j k := by
  unfold bayerCoef
  rw [xorInterleave_low16]

/-- The coefficient bit by bit (R79): bit n is bit 2k - 1 - n of the interleaved code. -/
theorem getLsbD_bayerCoef (i j : Word) {k : Nat} (hk : k ≤ 16) (n : Nat) :
    (bayerCoef i j k).getLsbD n = (decide (n < 2 * k) && (xorInterleave i j).getLsbD (2 * k - 1 - n)) := by
  unfold bayerCoef
  split
  · next h => simp [h]
  · next h =>
    rw [BitVec.getLsbD_ushiftRight, getLsbD_bitReverse]
    by_cases hn : n < 2 * k
    · have h1 : 32 - 2 * k + n < 32 := by omega
      have h2 : 31 - (32 - 2 * k + n) = 2 * k - 1 - n := by omega
      simp [hn, h1, h2]
    · have h1 : ¬ 32 - 2 * k + n < 32 := by omega
      simp [hn, h1]

/-- FindMSB's index has its bit set, and no bit above it is set (R75). -/
theorem findMSB_spec {v : Word} (h : v ≠ 0) :
    findMSB v < 32 ∧ 2 ^ findMSB v ≤ v.toNat ∧ v.toNat < 2 ^ (findMSB v + 1) := by
  have h0 : v.toNat ≠ 0 := fun h' => h (BitVec.eq_of_toNat_eq (by simpa using h'))
  refine ⟨(Nat.log2_lt h0).2 v.isLt, Nat.log2_self_le h0, Nat.lt_log2_self⟩

/-- FindMSB of a power of two is its exponent (R75). -/
theorem findMSB_two_pow {v : Word} {k : Nat} (h : v.toNat = 2 ^ k) : findMSB v = k := by
  unfold findMSB
  rw [h]
  exact Nat.log2_two_pow

/-- ISPOW2's test is the source's set 1, 2, 4, 8, ... (R74). -/
theorem isPow2_iff {v : Word} : isPow2 v = true ↔ ∃ n < 32, v.toNat = 2 ^ n := by
  constructor
  · intro h
    have h1 : ((List.range 32).filter fun n => v.getLsbD n).length = 1 := by
      have : popcount v = 1 := by simpa [isPow2] using h
      rwa [popcount, List.countP_eq_length_filter] at this
    obtain ⟨n, hn⟩ := List.length_eq_one_iff.1 h1
    have hbit : ∀ m, m < 32 → (v.getLsbD m = true ↔ m = n) := by
      intro m hm
      have : m ∈ (List.range 32).filter (fun n => v.getLsbD n) ↔ m ∈ [n] := by rw [hn]
      simpa [hm] using this
    have hn32 : n < 32 := by
      have : n ∈ (List.range 32).filter (fun n => v.getLsbD n) := by rw [hn]; exact List.mem_singleton.2 rfl
      exact List.mem_range.1 (List.mem_filter.1 this).1
    refine ⟨n, hn32, ?_⟩
    have hv : v = BitVec.twoPow 32 n := by
      apply BitVec.eq_of_getLsbD_eq
      intro m hm
      rw [BitVec.getLsbD_twoPow, Bool.eq_iff_iff, hbit m hm]
      simp [hn32, eq_comm]
    rw [hv, BitVec.toNat_twoPow_of_lt hn32]
  · rintro ⟨n, hn, hv⟩
    have hv' : v = BitVec.ofNat 32 (2 ^ n) := BitVec.eq_of_toNat_eq (by
      rw [hv, BitVec.toNat_ofNat, Nat.mod_eq_of_lt (Nat.pow_lt_pow_right (by omega) hn)])
    have key : ∀ m : Fin 32, isPow2 (BitVec.ofNat 32 (2 ^ m.val)) = true := by decide
    rw [hv']
    exact key ⟨n, hn⟩

end Sys2Proof.Machine
end

