-- ==== Sys2Proof/Laws/Decode.lean ====
section
/-! SUPPORT. The fields of the command word and the cases of the decoder (spec 30_encoding.md R59, R66). -/

namespace Sys2Proof

theorem opField_lt (w : Word) : opField w < 256 := (w.extractLsb' 0 8).isLt

theorem ordField_lt (w : Word) : ordField w < 32 := (w.extractLsb' 8 5).isLt

theorem rsvField_lt (w : Word) : rsvField w < 2 ^ 19 := (w.extractLsb' 13 19).isLt

theorem opField_eq (w : Word) : opField w = w.toNat % 256 := by
  simp [opField, BitVec.extractLsb'_toNat]

theorem ordField_eq (w : Word) : ordField w = w.toNat / 256 % 32 := by
  simp [ordField, BitVec.extractLsb'_toNat, Nat.shiftRight_eq_div_pow]

theorem rsvField_eq (w : Word) : rsvField w = w.toNat / 8192 := by
  have := w.isLt
  simp only [rsvField, BitVec.extractLsb'_toNat, Nat.shiftRight_eq_div_pow]
  omega

/-- The three fields make up the word (R59). -/
theorem word_eq_fields (w : Word) : w.toNat = opField w + 256 * ordField w + 8192 * rsvField w := by
  rw [opField_eq, ordField_eq, rsvField_eq]
  omega

/-- A command without an order decodes exactly when ORD is 0. -/
theorem plainCommand_ok {ord : Nat} {i j : Instr} : plainCommand ord i = .ok j ↔ ord = 0 ∧ i = j := by
  unfold plainCommand
  split <;> simp_all

/-- What a word that decodes looks like: RSV is 0 and OP is the command's, with ORD 0 but for BAYER and QUANT (R66). -/
theorem decode_ok {w : Word} {i : Instr} (h : decode w = .ok i) :
    rsvField w = 0 ∧ ordField w = orderOf i ∧ opField w = (rowMatch i).toNat := by
  unfold decode at h
  split at h
  · cases h
  · next hr =>
    have hr : rsvField w = 0 := by omega
    split at h
    all_goals first
      | (obtain ⟨h0, rfl⟩ := plainCommand_ok.1 h; exact ⟨hr, h0, by assumption⟩)
      | (cases h; exact ⟨hr, rfl, by assumption⟩)
      | cases h

end Sys2Proof
end

