-- ==== Sys2Proof/Laws/Memory.lean ====
section
/-! SUPPORT. Sample memory: read after write, and every operation keeps the canonical form (spec 20_memory.md R43,
R48). -/

namespace Sys2Proof.Machine

@[simp] theorem Memory.cell_nil (a : Nat) : Memory.cell [] a = none := rfl

@[simp] theorem Memory.cell_cons (b : Nat) (v : Byte) (m : Memory) (a : Nat) :
    Memory.cell ((b, v) :: m) a = if a = b then some v else Memory.cell m a := rfl

/-- One write, seen at every address. -/
theorem Memory.cell_writeByte (m : Memory) (a : Nat) (v : Byte) (x : Nat) :
    (m.writeByte a v).cell x = if x = a then some v else m.cell x := by
  induction m with
  | nil => rfl
  | cons c m ih =>
    obtain ⟨b, w⟩ := c
    unfold Memory.writeByte
    split
    · rfl
    · split
      · next h => subst h; simp only [Memory.cell_cons]; split <;> rfl
      · next h =>
        simp only [Memory.cell_cons, ih]
        split <;> split <;> simp_all

theorem Memory.readByte_writeByte (m : Memory) (a : Nat) (v : Byte) (x : Nat) :
    (m.writeByte a v).readByte x = if x = a then v else m.readByte x := by
  unfold Memory.readByte
  rw [Memory.cell_writeByte]
  split <;> rfl

/-- A byte written is the byte read back. -/
@[simp] theorem Memory.readByte_writeByte_same (m : Memory) (a : Nat) (v : Byte) :
    (m.writeByte a v).readByte a = v := by
  rw [Memory.readByte_writeByte, if_pos rfl]

/-- A write has no effect beyond the addressed byte (20_memory.md R48). -/
theorem Memory.readByte_writeByte_other (m : Memory) {a x : Nat} (v : Byte) (h : x ≠ a) :
    (m.writeByte a v).readByte x = m.readByte x := by
  rw [Memory.readByte_writeByte, if_neg h]

/-- Every entry after a write is the new one or an old one. -/
theorem Memory.mem_writeByte {m : Memory} {a : Nat} {v : Byte} {c : Host.Cell} (h : c ∈ m.writeByte a v) :
    c = (a, v) ∨ c ∈ m := by
  induction m with
  | nil => exact .inl (by simpa [Memory.writeByte] using h)
  | cons d m ih =>
    obtain ⟨b, w⟩ := d
    unfold Memory.writeByte at h
    split at h
    · simpa using h
    · split at h
      · rcases List.mem_cons.1 h with h | h
        · exact .inl h
        · exact .inr (List.mem_cons_of_mem _ h)
      · rcases List.mem_cons.1 h with h | h
        · exact .inr (by simp [h])
        · rcases ih h with h | h
          · exact .inl h
          · exact .inr (List.mem_cons_of_mem _ h)

/-- A write keeps the canonical form. -/
theorem Memory.writeByte_wf {m : Memory} (h : m.wf) (a : Nat) (v : Byte) : (m.writeByte a v).wf := by
  induction m with
  | nil => simp [Memory.writeByte, Memory.wf]
  | cons d m ih =>
    obtain ⟨b, w⟩ := d
    obtain ⟨hb, hm⟩ := List.pairwise_cons.1 h
    unfold Memory.writeByte
    split
    · next hab =>
      refine List.pairwise_cons.2 ⟨fun c hc => ?_, h⟩
      rcases List.mem_cons.1 hc with rfl | hc
      · exact hab
      · exact Nat.lt_trans hab (hb c hc)
    · split
      · next hab =>
        subst hab
        exact List.pairwise_cons.2 ⟨hb, hm⟩
      · refine List.pairwise_cons.2 ⟨fun c hc => ?_, ih hm⟩
        rcases Memory.mem_writeByte hc with rfl | hc
        · show b < a
          omega
        · exact hb c hc

/-- Below every listed address nothing is listed. -/
theorem Memory.cell_eq_none {m : Memory} {a : Nat} (h : ∀ c ∈ m, a < c.1) : m.cell a = none := by
  induction m with
  | nil => rfl
  | cons d m ih =>
    obtain ⟨b, w⟩ := d
    have hb : a < b := h (b, w) (by simp)
    rw [Memory.cell_cons, if_neg (by omega)]
    exact ih fun c hc => h c (List.mem_cons_of_mem _ hc)

/-- In canonical form equal contents are equal data. -/
theorem Memory.ext_cell {m n : Memory} (hm : m.wf) (hn : n.wf) (h : ∀ a, m.cell a = n.cell a) : m = n := by
  induction m generalizing n with
  | nil =>
    cases n with
    | nil => rfl
    | cons d n =>
      obtain ⟨e, w⟩ := d
      have := h e
      simp at this
  | cons c m ih =>
    obtain ⟨b, v⟩ := c
    obtain ⟨hb, hm'⟩ := List.pairwise_cons.1 hm
    cases n with
    | nil => have := h b; simp at this
    | cons d n =>
      obtain ⟨e, w⟩ := d
      obtain ⟨he, hn'⟩ := List.pairwise_cons.1 hn
      have hbe : b = e := by
        rcases Nat.lt_trichotomy b e with hlt | heq | hgt
        · have h1 := h b
          rw [Memory.cell_cons, if_pos rfl, Memory.cell_cons, if_neg (by omega),
            Memory.cell_eq_none fun c hc => Nat.lt_trans hlt (he c hc)] at h1
          cases h1
        · exact heq
        · have h1 := h e
          rw [Memory.cell_cons, if_neg (by omega), Memory.cell_cons, if_pos rfl,
            Memory.cell_eq_none fun c hc => Nat.lt_trans hgt (hb c hc)] at h1
          cases h1
      subst hbe
      have hvw : v = w := by simpa using h b
      subst hvw
      congr 1
      refine ih hm' hn' fun a => ?_
      by_cases ha : a = b
      · subst ha
        rw [Memory.cell_eq_none hb, Memory.cell_eq_none he]
      · simpa [ha] using h a

/-- Memory after reset has the canonical form. -/
theorem Memory.reset_wf : State.reset.mem.wf := List.Pairwise.nil

@[simp] theorem State.byteAt_storeByte (s : State) (a : Nat) (v : Byte) (x : Nat) :
    (s.storeByte a v).byteAt x = if x = a then v else s.byteAt x :=
  Memory.readByte_writeByte s.mem a v x

/-- A read sees memory only. -/
theorem State.byteAt_congr {s t : State} (h : s.mem = t.mem) (a : Nat) : s.byteAt a = t.byteAt a := by
  unfold State.byteAt; rw [h]

end Sys2Proof.Machine
end

