-- ==== Sys2Proof/Laws/State.lean ====
section
/-! SUPPORT. What each update of State and of STATUS leaves in each field: one lemma per field per update. -/

namespace Sys2Proof.Machine

/-! ## STATUS -/

@[simp] theorem Status.accepted_busy (st : Status) : st.accepted.busy = true := rfl
@[simp] theorem Status.accepted_done (st : Status) : st.accepted.done = false := rfl
@[simp] theorem Status.accepted_err (st : Status) : st.accepted.err = false := rfl
@[simp] theorem Status.accepted_ovr (st : Status) : st.accepted.ovr = st.ovr := rfl
@[simp] theorem Status.accepted_errcode (st : Status) : st.accepted.errcode = none := rfl

@[simp] theorem Status.finished_busy (st : Status) : st.finished.busy = false := rfl
@[simp] theorem Status.finished_done (st : Status) : st.finished.done = true := rfl
@[simp] theorem Status.finished_err (st : Status) : st.finished.err = st.err := rfl
@[simp] theorem Status.finished_ovr (st : Status) : st.finished.ovr = st.ovr := rfl
@[simp] theorem Status.finished_errcode (st : Status) : st.finished.errcode = st.errcode := rfl

@[simp] theorem Status.raised_busy (st : Status) (e : CmdError) : (st.raised e).busy = false := rfl
@[simp] theorem Status.raised_done (st : Status) (e : CmdError) : (st.raised e).done = false := rfl
@[simp] theorem Status.raised_err (st : Status) (e : CmdError) : (st.raised e).err = true := rfl
@[simp] theorem Status.raised_ovr (st : Status) (e : CmdError) : (st.raised e).ovr = st.ovr := rfl
@[simp] theorem Status.raised_errcode (st : Status) (e : CmdError) : (st.raised e).errcode = some e := rfl

@[simp] theorem Status.overrun_busy (st : Status) : st.overrun.busy = st.busy := rfl
@[simp] theorem Status.overrun_done (st : Status) : st.overrun.done = st.done := rfl
@[simp] theorem Status.overrun_err (st : Status) : st.overrun.err = st.err := rfl
@[simp] theorem Status.overrun_ovr (st : Status) : st.overrun.ovr = true := rfl
@[simp] theorem Status.overrun_errcode (st : Status) : st.overrun.errcode = st.errcode := rfl

@[simp] theorem Status.hostWrite_busy (st : Status) (v : Word) : (st.hostWrite v).busy = st.busy := by
  unfold Status.hostWrite; split <;> rfl
@[simp] theorem Status.hostWrite_done (st : Status) (v : Word) : (st.hostWrite v).done = st.done := by
  unfold Status.hostWrite; split <;> rfl
@[simp] theorem Status.hostWrite_err (st : Status) (v : Word) : (st.hostWrite v).err = st.err := by
  unfold Status.hostWrite; split <;> rfl
@[simp] theorem Status.hostWrite_errcode (st : Status) (v : Word) : (st.hostWrite v).errcode = st.errcode := by
  unfold Status.hostWrite; split <;> rfl
@[simp] theorem Status.hostWrite_ovr (st : Status) (v : Word) :
    (st.hostWrite v).ovr = (st.ovr && !v.getLsbD 3) := by
  unfold Status.hostWrite; split <;> simp_all

/-- In a legal STATUS, BUSY excludes every trace of an end (10_state.md R16). -/
theorem Status.legal_busy {st : Status} (h : st.legal = true) (hb : st.busy = true) :
    st.done = false ∧ st.err = false ∧ st.errcode = none := by
  obtain ⟨b, d, e, o, c⟩ := st
  cases b <;> cases d <;> cases e <;> simp_all [Status.legal]

/-- OVR plays no part in whether a STATUS is legal (R16). -/
theorem Status.legal_congr {st su : Status} (h : st.legal = true) (h1 : su.busy = st.busy)
    (h2 : su.done = st.done) (h3 : su.err = st.err) (h4 : su.errcode = st.errcode) : su.legal = true := by
  obtain ⟨b, d, e, o, c⟩ := st
  obtain ⟨b', d', e', o', c'⟩ := su
  simp_all [Status.legal]

/-- A legal busy STATUS is legal after `finish()` (60_exceptions.md R111). -/
theorem Status.legal_finished {st : Status} (h : st.legal = true) (hb : st.busy = true) :
    st.finished.legal = true := by
  obtain ⟨b, d, e, o, c⟩ := st
  cases b <;> cases d <;> cases e <;> simp_all [Status.legal, Status.finished]

@[simp] theorem Status.legal_raised (st : Status) (e : CmdError) : (st.raised e).legal = true := rfl

@[simp] theorem Status.legal_accepted (st : Status) : st.accepted.legal = true := rfl

/-! ## State.setResult -/

@[simp] theorem State.setResult_status (s : State) (v : Word) : (s.setResult v).status = s.status := rfl
@[simp] theorem State.setResult_opa (s : State) (v : Word) : (s.setResult v).opa = s.opa := rfl
@[simp] theorem State.setResult_opb (s : State) (v : Word) : (s.setResult v).opb = s.opb := rfl
@[simp] theorem State.setResult_result (s : State) (v : Word) : (s.setResult v).result = v := rfl
@[simp] theorem State.setResult_width (s : State) (v : Word) : (s.setResult v).width = s.width := rfl
@[simp] theorem State.setResult_height (s : State) (v : Word) : (s.setResult v).height = s.height := rfl
@[simp] theorem State.setResult_channels (s : State) (v : Word) : (s.setResult v).channels = s.channels := rfl
@[simp] theorem State.setResult_colors (s : State) (v : Word) : (s.setResult v).colors = s.colors := rfl
@[simp] theorem State.setResult_order (s : State) (v : Word) : (s.setResult v).order = s.order := rfl
@[simp] theorem State.setResult_srcBase (s : State) (v : Word) : (s.setResult v).srcBase = s.srcBase := rfl
@[simp] theorem State.setResult_dstBase (s : State) (v : Word) : (s.setResult v).dstBase = s.dstBase := rfl
@[simp] theorem State.setResult_pend (s : State) (v : Word) : (s.setResult v).pend = s.pend := rfl
@[simp] theorem State.setResult_todo (s : State) (v : Word) : (s.setResult v).todo = s.todo := rfl
@[simp] theorem State.setResult_kReg (s : State) (v : Word) : (s.setResult v).kReg = s.kReg := rfl
@[simp] theorem State.setResult_mem (s : State) (v : Word) : (s.setResult v).mem = s.mem := rfl
@[simp] theorem State.setResult_memLast (s : State) (v : Word) : (s.setResult v).memLast = s.memLast := rfl
@[simp] theorem State.setResult_errLog (s : State) (v : Word) : (s.setResult v).errLog = s.errLog := rfl
@[simp] theorem State.setResult_schedule (s : State) (v : Word) : (s.setResult v).schedule = s.schedule := rfl
@[simp] theorem State.setResult_picks (s : State) (v : Word) : (s.setResult v).picks = s.picks := rfl
@[simp] theorem State.setResult_draws (s : State) (v : Word) : (s.setResult v).draws = s.draws := rfl
@[simp] theorem State.setResult_replies (s : State) (v : Word) : (s.setResult v).replies = s.replies := rfl
@[simp] theorem State.setResult_ahead (s : State) (v : Word) : (s.setResult v).ahead = s.ahead := rfl

/-! ## State.storeByte -/

@[simp] theorem State.storeByte_status (s : State) (a : Nat) (v : Byte) : (s.storeByte a v).status = s.status := rfl
@[simp] theorem State.storeByte_opa (s : State) (a : Nat) (v : Byte) : (s.storeByte a v).opa = s.opa := rfl
@[simp] theorem State.storeByte_opb (s : State) (a : Nat) (v : Byte) : (s.storeByte a v).opb = s.opb := rfl
@[simp] theorem State.storeByte_result (s : State) (a : Nat) (v : Byte) : (s.storeByte a v).result = s.result := rfl
@[simp] theorem State.storeByte_width (s : State) (a : Nat) (v : Byte) : (s.storeByte a v).width = s.width := rfl
@[simp] theorem State.storeByte_height (s : State) (a : Nat) (v : Byte) : (s.storeByte a v).height = s.height := rfl
@[simp] theorem State.storeByte_channels (s : State) (a : Nat) (v : Byte) :
    (s.storeByte a v).channels = s.channels := rfl
@[simp] theorem State.storeByte_colors (s : State) (a : Nat) (v : Byte) : (s.storeByte a v).colors = s.colors := rfl
@[simp] theorem State.storeByte_order (s : State) (a : Nat) (v : Byte) : (s.storeByte a v).order = s.order := rfl
@[simp] theorem State.storeByte_srcBase (s : State) (a : Nat) (v : Byte) :
    (s.storeByte a v).srcBase = s.srcBase := rfl
@[simp] theorem State.storeByte_dstBase (s : State) (a : Nat) (v : Byte) :
    (s.storeByte a v).dstBase = s.dstBase := rfl
@[simp] theorem State.storeByte_pend (s : State) (a : Nat) (v : Byte) : (s.storeByte a v).pend = s.pend := rfl
@[simp] theorem State.storeByte_todo (s : State) (a : Nat) (v : Byte) : (s.storeByte a v).todo = s.todo := rfl
@[simp] theorem State.storeByte_kReg (s : State) (a : Nat) (v : Byte) : (s.storeByte a v).kReg = s.kReg := rfl
@[simp] theorem State.storeByte_mem (s : State) (a : Nat) (v : Byte) :
    (s.storeByte a v).mem = s.mem.writeByte a v := rfl
@[simp] theorem State.storeByte_memLast (s : State) (a : Nat) (v : Byte) :
    (s.storeByte a v).memLast = s.memLast := rfl
@[simp] theorem State.storeByte_errLog (s : State) (a : Nat) (v : Byte) : (s.storeByte a v).errLog = s.errLog := rfl
@[simp] theorem State.storeByte_schedule (s : State) (a : Nat) (v : Byte) :
    (s.storeByte a v).schedule = s.schedule := rfl
@[simp] theorem State.storeByte_picks (s : State) (a : Nat) (v : Byte) : (s.storeByte a v).picks = s.picks := rfl
@[simp] theorem State.storeByte_draws (s : State) (a : Nat) (v : Byte) : (s.storeByte a v).draws = s.draws := rfl
@[simp] theorem State.storeByte_replies (s : State) (a : Nat) (v : Byte) :
    (s.storeByte a v).replies = s.replies := rfl
@[simp] theorem State.storeByte_ahead (s : State) (a : Nat) (v : Byte) :
    (s.storeByte a v).ahead = s.ahead := rfl

/-! ## State.usePick -/

@[simp] theorem State.usePick_status (s : State) : s.usePick.status = s.status := rfl
@[simp] theorem State.usePick_opa (s : State) : s.usePick.opa = s.opa := rfl
@[simp] theorem State.usePick_opb (s : State) : s.usePick.opb = s.opb := rfl
@[simp] theorem State.usePick_result (s : State) : s.usePick.result = s.result := rfl
@[simp] theorem State.usePick_width (s : State) : s.usePick.width = s.width := rfl
@[simp] theorem State.usePick_height (s : State) : s.usePick.height = s.height := rfl
@[simp] theorem State.usePick_channels (s : State) : s.usePick.channels = s.channels := rfl
@[simp] theorem State.usePick_colors (s : State) : s.usePick.colors = s.colors := rfl
@[simp] theorem State.usePick_order (s : State) : s.usePick.order = s.order := rfl
@[simp] theorem State.usePick_srcBase (s : State) : s.usePick.srcBase = s.srcBase := rfl
@[simp] theorem State.usePick_dstBase (s : State) : s.usePick.dstBase = s.dstBase := rfl
@[simp] theorem State.usePick_pend (s : State) : s.usePick.pend = s.pend := rfl
@[simp] theorem State.usePick_todo (s : State) : s.usePick.todo = s.todo := rfl
@[simp] theorem State.usePick_kReg (s : State) : s.usePick.kReg = s.kReg := rfl
@[simp] theorem State.usePick_mem (s : State) : s.usePick.mem = s.mem := rfl
@[simp] theorem State.usePick_memLast (s : State) : s.usePick.memLast = s.memLast := rfl
@[simp] theorem State.usePick_errLog (s : State) : s.usePick.errLog = s.errLog := rfl
@[simp] theorem State.usePick_schedule (s : State) : s.usePick.schedule = s.schedule := rfl
@[simp] theorem State.usePick_picks (s : State) : s.usePick.picks = s.picks.tail := rfl
@[simp] theorem State.usePick_draws (s : State) : s.usePick.draws = s.draws + 1 := rfl
@[simp] theorem State.usePick_replies (s : State) : s.usePick.replies = s.replies := rfl
@[simp] theorem State.usePick_ahead (s : State) : s.usePick.ahead = s.ahead := rfl

/-! ## State.removeTodo -/

@[simp] theorem State.removeTodo_status (s : State) (idx : Nat) : (s.removeTodo idx).status = s.status := rfl
@[simp] theorem State.removeTodo_opa (s : State) (idx : Nat) : (s.removeTodo idx).opa = s.opa := rfl
@[simp] theorem State.removeTodo_opb (s : State) (idx : Nat) : (s.removeTodo idx).opb = s.opb := rfl
@[simp] theorem State.removeTodo_result (s : State) (idx : Nat) : (s.removeTodo idx).result = s.result := rfl
@[simp] theorem State.removeTodo_width (s : State) (idx : Nat) : (s.removeTodo idx).width = s.width := rfl
@[simp] theorem State.removeTodo_height (s : State) (idx : Nat) : (s.removeTodo idx).height = s.height := rfl
@[simp] theorem State.removeTodo_channels (s : State) (idx : Nat) : (s.removeTodo idx).channels = s.channels := rfl
@[simp] theorem State.removeTodo_colors (s : State) (idx : Nat) : (s.removeTodo idx).colors = s.colors := rfl
@[simp] theorem State.removeTodo_order (s : State) (idx : Nat) : (s.removeTodo idx).order = s.order := rfl
@[simp] theorem State.removeTodo_srcBase (s : State) (idx : Nat) : (s.removeTodo idx).srcBase = s.srcBase := rfl
@[simp] theorem State.removeTodo_dstBase (s : State) (idx : Nat) : (s.removeTodo idx).dstBase = s.dstBase := rfl
@[simp] theorem State.removeTodo_pend (s : State) (idx : Nat) : (s.removeTodo idx).pend = s.pend := rfl
@[simp] theorem State.removeTodo_todo (s : State) (idx : Nat) :
    (s.removeTodo idx).todo = s.todo.filter (· != idx) := rfl
@[simp] theorem State.removeTodo_kReg (s : State) (idx : Nat) : (s.removeTodo idx).kReg = s.kReg := rfl
@[simp] theorem State.removeTodo_mem (s : State) (idx : Nat) : (s.removeTodo idx).mem = s.mem := rfl
@[simp] theorem State.removeTodo_memLast (s : State) (idx : Nat) : (s.removeTodo idx).memLast = s.memLast := rfl
@[simp] theorem State.removeTodo_errLog (s : State) (idx : Nat) : (s.removeTodo idx).errLog = s.errLog := rfl
@[simp] theorem State.removeTodo_schedule (s : State) (idx : Nat) : (s.removeTodo idx).schedule = s.schedule := rfl
@[simp] theorem State.removeTodo_picks (s : State) (idx : Nat) : (s.removeTodo idx).picks = s.picks := rfl
@[simp] theorem State.removeTodo_draws (s : State) (idx : Nat) : (s.removeTodo idx).draws = s.draws := rfl
@[simp] theorem State.removeTodo_replies (s : State) (idx : Nat) : (s.removeTodo idx).replies = s.replies := rfl
@[simp] theorem State.removeTodo_ahead (s : State) (idx : Nat) :
    (s.removeTodo idx).ahead = s.ahead.filter (·.1 != idx) := rfl

/-! ## State.reply -/

@[simp] theorem State.reply_status (s : State) (r : Reply) : (s.reply r).status = s.status := rfl
@[simp] theorem State.reply_opa (s : State) (r : Reply) : (s.reply r).opa = s.opa := rfl
@[simp] theorem State.reply_opb (s : State) (r : Reply) : (s.reply r).opb = s.opb := rfl
@[simp] theorem State.reply_result (s : State) (r : Reply) : (s.reply r).result = s.result := rfl
@[simp] theorem State.reply_width (s : State) (r : Reply) : (s.reply r).width = s.width := rfl
@[simp] theorem State.reply_height (s : State) (r : Reply) : (s.reply r).height = s.height := rfl
@[simp] theorem State.reply_channels (s : State) (r : Reply) : (s.reply r).channels = s.channels := rfl
@[simp] theorem State.reply_colors (s : State) (r : Reply) : (s.reply r).colors = s.colors := rfl
@[simp] theorem State.reply_order (s : State) (r : Reply) : (s.reply r).order = s.order := rfl
@[simp] theorem State.reply_srcBase (s : State) (r : Reply) : (s.reply r).srcBase = s.srcBase := rfl
@[simp] theorem State.reply_dstBase (s : State) (r : Reply) : (s.reply r).dstBase = s.dstBase := rfl
@[simp] theorem State.reply_pend (s : State) (r : Reply) : (s.reply r).pend = s.pend := rfl
@[simp] theorem State.reply_todo (s : State) (r : Reply) : (s.reply r).todo = s.todo := rfl
@[simp] theorem State.reply_kReg (s : State) (r : Reply) : (s.reply r).kReg = s.kReg := rfl
@[simp] theorem State.reply_mem (s : State) (r : Reply) : (s.reply r).mem = s.mem := rfl
@[simp] theorem State.reply_memLast (s : State) (r : Reply) : (s.reply r).memLast = s.memLast := rfl
@[simp] theorem State.reply_errLog (s : State) (r : Reply) : (s.reply r).errLog = s.errLog := rfl
@[simp] theorem State.reply_schedule (s : State) (r : Reply) : (s.reply r).schedule = s.schedule := rfl
@[simp] theorem State.reply_picks (s : State) (r : Reply) : (s.reply r).picks = s.picks := rfl
@[simp] theorem State.reply_draws (s : State) (r : Reply) : (s.reply r).draws = s.draws := rfl
@[simp] theorem State.reply_replies (s : State) (r : Reply) : (s.reply r).replies = s.replies ++ [r] := rfl
@[simp] theorem State.reply_ahead (s : State) (r : Reply) : (s.reply r).ahead = s.ahead := rfl

/-! ## finish -/

@[simp] theorem finish_status (s : State) : (finish s).status = s.status.finished := rfl
@[simp] theorem finish_opa (s : State) : (finish s).opa = s.opa := rfl
@[simp] theorem finish_opb (s : State) : (finish s).opb = s.opb := rfl
@[simp] theorem finish_result (s : State) : (finish s).result = s.result := rfl
@[simp] theorem finish_width (s : State) : (finish s).width = s.width := rfl
@[simp] theorem finish_height (s : State) : (finish s).height = s.height := rfl
@[simp] theorem finish_channels (s : State) : (finish s).channels = s.channels := rfl
@[simp] theorem finish_colors (s : State) : (finish s).colors = s.colors := rfl
@[simp] theorem finish_order (s : State) : (finish s).order = s.order := rfl
@[simp] theorem finish_srcBase (s : State) : (finish s).srcBase = s.srcBase := rfl
@[simp] theorem finish_dstBase (s : State) : (finish s).dstBase = s.dstBase := rfl
@[simp] theorem finish_pend (s : State) : (finish s).pend = s.pend := rfl
@[simp] theorem finish_todo (s : State) : (finish s).todo = [] := rfl
@[simp] theorem finish_kReg (s : State) : (finish s).kReg = s.kReg := rfl
@[simp] theorem finish_mem (s : State) : (finish s).mem = s.mem := rfl
@[simp] theorem finish_memLast (s : State) : (finish s).memLast = s.memLast := rfl
@[simp] theorem finish_errLog (s : State) : (finish s).errLog = s.errLog := rfl
@[simp] theorem finish_schedule (s : State) : (finish s).schedule = s.schedule := rfl
@[simp] theorem finish_picks (s : State) : (finish s).picks = s.picks := rfl
@[simp] theorem finish_draws (s : State) : (finish s).draws = s.draws := rfl
@[simp] theorem finish_replies (s : State) : (finish s).replies = s.replies := rfl
@[simp] theorem finish_ahead (s : State) : (finish s).ahead = [] := rfl

/-! ## finishWith -/

@[simp] theorem finishWith_status (v : Word) (s : State) : (finishWith v s).status = s.status.finished := rfl
@[simp] theorem finishWith_opa (v : Word) (s : State) : (finishWith v s).opa = s.opa := rfl
@[simp] theorem finishWith_opb (v : Word) (s : State) : (finishWith v s).opb = s.opb := rfl
@[simp] theorem finishWith_result (v : Word) (s : State) : (finishWith v s).result = v := rfl
@[simp] theorem finishWith_width (v : Word) (s : State) : (finishWith v s).width = s.width := rfl
@[simp] theorem finishWith_height (v : Word) (s : State) : (finishWith v s).height = s.height := rfl
@[simp] theorem finishWith_channels (v : Word) (s : State) : (finishWith v s).channels = s.channels := rfl
@[simp] theorem finishWith_colors (v : Word) (s : State) : (finishWith v s).colors = s.colors := rfl
@[simp] theorem finishWith_order (v : Word) (s : State) : (finishWith v s).order = s.order := rfl
@[simp] theorem finishWith_srcBase (v : Word) (s : State) : (finishWith v s).srcBase = s.srcBase := rfl
@[simp] theorem finishWith_dstBase (v : Word) (s : State) : (finishWith v s).dstBase = s.dstBase := rfl
@[simp] theorem finishWith_pend (v : Word) (s : State) : (finishWith v s).pend = s.pend := rfl
@[simp] theorem finishWith_todo (v : Word) (s : State) : (finishWith v s).todo = [] := rfl
@[simp] theorem finishWith_kReg (v : Word) (s : State) : (finishWith v s).kReg = s.kReg := rfl
@[simp] theorem finishWith_mem (v : Word) (s : State) : (finishWith v s).mem = s.mem := rfl
@[simp] theorem finishWith_memLast (v : Word) (s : State) : (finishWith v s).memLast = s.memLast := rfl
@[simp] theorem finishWith_errLog (v : Word) (s : State) : (finishWith v s).errLog = s.errLog := rfl
@[simp] theorem finishWith_schedule (v : Word) (s : State) : (finishWith v s).schedule = s.schedule := rfl
@[simp] theorem finishWith_picks (v : Word) (s : State) : (finishWith v s).picks = s.picks := rfl
@[simp] theorem finishWith_draws (v : Word) (s : State) : (finishWith v s).draws = s.draws := rfl
@[simp] theorem finishWith_replies (v : Word) (s : State) : (finishWith v s).replies = s.replies := rfl
@[simp] theorem finishWith_ahead (v : Word) (s : State) : (finishWith v s).ahead = [] := rfl

/-! ## raiseError -/

@[simp] theorem raiseError_status (e : CmdError) (s : State) : (raiseError e s).status = s.status.raised e := rfl
@[simp] theorem raiseError_opa (e : CmdError) (s : State) : (raiseError e s).opa = s.opa := rfl
@[simp] theorem raiseError_opb (e : CmdError) (s : State) : (raiseError e s).opb = s.opb := rfl
@[simp] theorem raiseError_result (e : CmdError) (s : State) : (raiseError e s).result = s.result := rfl
@[simp] theorem raiseError_width (e : CmdError) (s : State) : (raiseError e s).width = s.width := rfl
@[simp] theorem raiseError_height (e : CmdError) (s : State) : (raiseError e s).height = s.height := rfl
@[simp] theorem raiseError_channels (e : CmdError) (s : State) : (raiseError e s).channels = s.channels := rfl
@[simp] theorem raiseError_colors (e : CmdError) (s : State) : (raiseError e s).colors = s.colors := rfl
@[simp] theorem raiseError_order (e : CmdError) (s : State) : (raiseError e s).order = s.order := rfl
@[simp] theorem raiseError_srcBase (e : CmdError) (s : State) : (raiseError e s).srcBase = s.srcBase := rfl
@[simp] theorem raiseError_dstBase (e : CmdError) (s : State) : (raiseError e s).dstBase = s.dstBase := rfl
@[simp] theorem raiseError_pend (e : CmdError) (s : State) : (raiseError e s).pend = s.pend := rfl
@[simp] theorem raiseError_todo (e : CmdError) (s : State) : (raiseError e s).todo = [] := rfl
@[simp] theorem raiseError_kReg (e : CmdError) (s : State) : (raiseError e s).kReg = s.kReg := rfl
@[simp] theorem raiseError_mem (e : CmdError) (s : State) : (raiseError e s).mem = s.mem := rfl
@[simp] theorem raiseError_memLast (e : CmdError) (s : State) : (raiseError e s).memLast = s.memLast := rfl
@[simp] theorem raiseError_errLog (e : CmdError) (s : State) :
    (raiseError e s).errLog = s.errLog ++ [{ code := e, command := s.pend }] := rfl
@[simp] theorem raiseError_schedule (e : CmdError) (s : State) : (raiseError e s).schedule = s.schedule := rfl
@[simp] theorem raiseError_picks (e : CmdError) (s : State) : (raiseError e s).picks = s.picks := rfl
@[simp] theorem raiseError_draws (e : CmdError) (s : State) : (raiseError e s).draws = s.draws := rfl
@[simp] theorem raiseError_replies (e : CmdError) (s : State) : (raiseError e s).replies = s.replies := rfl
@[simp] theorem raiseError_ahead (e : CmdError) (s : State) : (raiseError e s).ahead = [] := rfl

/-! ## accept -/

@[simp] theorem accept_status (w : Word) (s : State) : (accept w s).status = s.status.accepted := rfl
@[simp] theorem accept_opa (w : Word) (s : State) : (accept w s).opa = s.opa := rfl
@[simp] theorem accept_opb (w : Word) (s : State) : (accept w s).opb = s.opb := rfl
@[simp] theorem accept_result (w : Word) (s : State) : (accept w s).result = s.result := rfl
@[simp] theorem accept_width (w : Word) (s : State) : (accept w s).width = s.width := rfl
@[simp] theorem accept_height (w : Word) (s : State) : (accept w s).height = s.height := rfl
@[simp] theorem accept_channels (w : Word) (s : State) : (accept w s).channels = s.channels := rfl
@[simp] theorem accept_colors (w : Word) (s : State) : (accept w s).colors = s.colors := rfl
@[simp] theorem accept_order (w : Word) (s : State) : (accept w s).order = s.order := rfl
@[simp] theorem accept_srcBase (w : Word) (s : State) : (accept w s).srcBase = s.srcBase := rfl
@[simp] theorem accept_dstBase (w : Word) (s : State) : (accept w s).dstBase = s.dstBase := rfl
@[simp] theorem accept_pend (w : Word) (s : State) : (accept w s).pend = w := rfl
@[simp] theorem accept_todo (w : Word) (s : State) : (accept w s).todo = s.todo := rfl
@[simp] theorem accept_kReg (w : Word) (s : State) : (accept w s).kReg = s.kReg := rfl
@[simp] theorem accept_mem (w : Word) (s : State) : (accept w s).mem = s.mem := rfl
@[simp] theorem accept_memLast (w : Word) (s : State) : (accept w s).memLast = s.memLast := rfl
@[simp] theorem accept_errLog (w : Word) (s : State) : (accept w s).errLog = s.errLog := rfl
@[simp] theorem accept_schedule (w : Word) (s : State) : (accept w s).schedule = s.schedule := rfl
@[simp] theorem accept_picks (w : Word) (s : State) : (accept w s).picks = s.picks := rfl
@[simp] theorem accept_draws (w : Word) (s : State) : (accept w s).draws = s.draws := rfl
@[simp] theorem accept_replies (w : Word) (s : State) : (accept w s).replies = s.replies := rfl
@[simp] theorem accept_ahead (w : Word) (s : State) : (accept w s).ahead = s.ahead := rfl

/-! ## passStart -/

@[simp] theorem passStart_status (s : State) : (passStart s).status = s.status := rfl
@[simp] theorem passStart_opa (s : State) : (passStart s).opa = s.opa := rfl
@[simp] theorem passStart_opb (s : State) : (passStart s).opb = s.opb := rfl
@[simp] theorem passStart_result (s : State) : (passStart s).result = s.result := rfl
@[simp] theorem passStart_width (s : State) : (passStart s).width = s.width := rfl
@[simp] theorem passStart_height (s : State) : (passStart s).height = s.height := rfl
@[simp] theorem passStart_channels (s : State) : (passStart s).channels = s.channels := rfl
@[simp] theorem passStart_colors (s : State) : (passStart s).colors = s.colors := rfl
@[simp] theorem passStart_order (s : State) : (passStart s).order = BitVec.ofNat 5 (findMSB s.width) := rfl
@[simp] theorem passStart_srcBase (s : State) : (passStart s).srcBase = s.srcBase := rfl
@[simp] theorem passStart_dstBase (s : State) : (passStart s).dstBase = s.dstBase := rfl
@[simp] theorem passStart_pend (s : State) : (passStart s).pend = s.pend := rfl
@[simp] theorem passStart_todo (s : State) : (passStart s).todo = List.range (passSamples s) := rfl
@[simp] theorem passStart_kReg (s : State) : (passStart s).kReg = BitVec.ofNat 5 (findMSB s.width) := rfl
@[simp] theorem passStart_mem (s : State) : (passStart s).mem = s.mem := rfl
@[simp] theorem passStart_memLast (s : State) : (passStart s).memLast = s.memLast := rfl
@[simp] theorem passStart_errLog (s : State) : (passStart s).errLog = s.errLog := rfl
@[simp] theorem passStart_schedule (s : State) : (passStart s).schedule = s.schedule := rfl
@[simp] theorem passStart_picks (s : State) : (passStart s).picks = s.picks := rfl
@[simp] theorem passStart_draws (s : State) : (passStart s).draws = s.draws := rfl
@[simp] theorem passStart_replies (s : State) : (passStart s).replies = s.replies := rfl
@[simp] theorem passStart_ahead (s : State) : (passStart s).ahead = s.ahead := rfl

/-! ## assertReset -/

@[simp] theorem assertReset_status (s : State) : (assertReset s).status = Status.reset := rfl
@[simp] theorem assertReset_opa (s : State) : (assertReset s).opa = 0 := rfl
@[simp] theorem assertReset_opb (s : State) : (assertReset s).opb = 0 := rfl
@[simp] theorem assertReset_result (s : State) : (assertReset s).result = 0 := rfl
@[simp] theorem assertReset_width (s : State) : (assertReset s).width = 0 := rfl
@[simp] theorem assertReset_height (s : State) : (assertReset s).height = 0 := rfl
@[simp] theorem assertReset_channels (s : State) : (assertReset s).channels = 0 := rfl
@[simp] theorem assertReset_colors (s : State) : (assertReset s).colors = 0 := rfl
@[simp] theorem assertReset_order (s : State) : (assertReset s).order = 0 := rfl
@[simp] theorem assertReset_srcBase (s : State) : (assertReset s).srcBase = 0 := rfl
@[simp] theorem assertReset_dstBase (s : State) : (assertReset s).dstBase = 0 := rfl
@[simp] theorem assertReset_pend (s : State) : (assertReset s).pend = 0 := rfl
@[simp] theorem assertReset_todo (s : State) : (assertReset s).todo = [] := rfl
@[simp] theorem assertReset_kReg (s : State) : (assertReset s).kReg = 0 := rfl
@[simp] theorem assertReset_mem (s : State) : (assertReset s).mem = s.mem := rfl
@[simp] theorem assertReset_memLast (s : State) : (assertReset s).memLast = s.memLast := rfl
@[simp] theorem assertReset_errLog (s : State) : (assertReset s).errLog = s.errLog := rfl
@[simp] theorem assertReset_schedule (s : State) : (assertReset s).schedule = s.schedule := rfl
@[simp] theorem assertReset_picks (s : State) : (assertReset s).picks = s.picks := rfl
@[simp] theorem assertReset_draws (s : State) : (assertReset s).draws = s.draws := rfl
@[simp] theorem assertReset_replies (s : State) : (assertReset s).replies = s.replies := rfl
@[simp] theorem assertReset_ahead (s : State) : (assertReset s).ahead = [] := rfl

end Sys2Proof.Machine
end

