-- ==== Sys2Proof/Laws/Exec.lean ====
section
/-! SUPPORT. What `exec` can do, said once (spec 60_exceptions.md R109, 43_pass.md R97, R98). -/

namespace Sys2Proof.Machine

/-- The choice gives no index exactly when TODO is empty. -/
theorem State.chosenIndex_eq_none {s : State} : s.chosenIndex = none ↔ s.todo = [] := by
  unfold State.chosenIndex
  rw [List.getElem?_eq_none_iff]
  constructor
  · intro h
    by_contra hne
    have hpos : 0 < s.todo.length := List.length_pos_iff.2 hne
    exact absurd (Nat.mod_lt s.pick hpos) (by omega)
  · intro h
    simp [h]

/-- The index chosen is an element of TODO (43_pass.md R98). -/
theorem State.chosenIndex_mem {s : State} {idx : Nat} (h : s.chosenIndex = some idx) : idx ∈ s.todo :=
  List.mem_of_getElem? h

/-- The check step, in the two cases of R97. -/
theorem passCheck_cases (s : State) :
    (∃ e, passError s = some e ∧ passCheck s = raiseError e s) ∨
      (passError s = none ∧ passCheck s = passStart s) := by
  unfold passCheck
  cases h : passError s with
  | none => exact .inr ⟨rfl, rfl⟩
  | some e => exact .inl ⟨e, rfl, rfl⟩

/-- A sample step that answers a next state has both addresses in memory. -/
theorem sampleStep_next {idx : Nat} {s t : State} (h : sampleStep idx s = .next t) :
    sourceAddress s idx < s.memBytes ∧ destAddress s idx < s.memBytes ∧
      t = finishIfDone (storeSample idx s) := by
  unfold sampleStep at h
  split at h
  · cases h
  · split at h
    · cases h
    · next h1 h2 =>
      cases h
      exact ⟨by omega, by omega, rfl⟩

/-- Both addresses in memory make a sample step answer. -/
theorem sampleStep_eq {idx : Nat} {s : State} (h1 : sourceAddress s idx < s.memBytes)
    (h2 : destAddress s idx < s.memBytes) : sampleStep idx s = .next (finishIfDone (storeSample idx s)) := by
  unfold sampleStep
  rw [if_neg (by omega), if_neg (by omega)]

/-- One core step of PASS, in its three cases. -/
theorem execPass_next {s t : State} (h : execPass s = .next t) :
    (s.todo = [] ∧ ∃ e, passError s = some e ∧ t = raiseError e s) ∨
      (s.todo = [] ∧ passError s = none ∧ t = passStart s) ∨
      (∃ idx ∈ s.todo, s.chosenIndex = some idx ∧ sourceAddress s idx < s.memBytes ∧
        destAddress s idx < s.memBytes ∧ t = finishIfDone (storeSample idx s)) := by
  unfold execPass at h
  split at h
  · next hc =>
    cases h
    have ht := State.chosenIndex_eq_none.1 hc
    rcases passCheck_cases s with ⟨e, he, hs⟩ | ⟨he, hs⟩
    · exact .inl ⟨ht, e, he, hs⟩
    · exact .inr (.inl ⟨ht, he, hs⟩)
  · next idx hc =>
    obtain ⟨h1, h2, h3⟩ := sampleStep_next h
    exact .inr (.inr ⟨idx, State.chosenIndex_mem hc, hc, h1, h2, h3⟩)

/-- Every next state of `exec`: the command writes RESULT and ends normally, or ends with an error, or is a PASS
that starts or processes one sample (R109). -/
theorem exec_next {i : Instr} {s t : State} (h : exec i s = .next t) :
    (i ≠ .pass ∧ ∃ r, t = finishWith r s) ∨
      (∃ e, t = raiseError e s) ∨
      (i = .pass ∧ s.todo = [] ∧ passError s = none ∧ t = passStart s) ∨
      (i = .pass ∧ ∃ idx ∈ s.todo, s.chosenIndex = some idx ∧ sourceAddress s idx < s.memBytes ∧
        destAddress s idx < s.memBytes ∧ t = finishIfDone (storeSample idx s)) := by
  cases i with
  | ispow2 => cases h; exact .inl ⟨by simp, _, rfl⟩
  | findmsb =>
    simp only [exec, execFindmsb] at h
    split at h <;> cases h
    · exact .inr (.inl ⟨_, rfl⟩)
    · exact .inl ⟨by simp, _, rfl⟩
  | dilate => cases h; exact .inl ⟨by simp, _, rfl⟩
  | bitrev => cases h; exact .inl ⟨by simp, _, rfl⟩
  | xoril => cases h; exact .inl ⟨by simp, _, rfl⟩
  | bayer k =>
    simp only [exec, execBayer] at h
    split at h <;> cases h
    · exact .inr (.inl ⟨_, rfl⟩)
    · exact .inl ⟨by simp, _, rfl⟩
  | quant k =>
    simp only [exec, execQuant] at h
    split at h
    · cases h; exact .inr (.inl ⟨_, rfl⟩)
    · split at h <;> cases h
      · exact .inr (.inl ⟨_, rfl⟩)
      · exact .inl ⟨by simp, _, rfl⟩
  | pass =>
    rcases execPass_next h with ⟨-, e, -, ht⟩ | ⟨h1, h2, ht⟩ | h
    · exact .inr (.inl ⟨e, ht⟩)
    · exact .inr (.inr (.inl ⟨rfl, h1, h2, ht⟩))
    · exact .inr (.inr (.inr ⟨rfl, h⟩))

/-- `exec` refuses nothing, and faults only in a sample step of PASS. -/
theorem exec_ne_pass_next {i : Instr} (hi : i ≠ .pass) (s : State) : ∃ t, exec i s = .next t := by
  cases i with
  | ispow2 => exact ⟨_, rfl⟩
  | findmsb => simp only [exec, execFindmsb]; split <;> exact ⟨_, rfl⟩
  | dilate => exact ⟨_, rfl⟩
  | bitrev => exact ⟨_, rfl⟩
  | xoril => exact ⟨_, rfl⟩
  | bayer k => simp only [exec, execBayer]; split <;> exact ⟨_, rfl⟩
  | quant k =>
    simp only [exec, execQuant]
    split
    · exact ⟨_, rfl⟩
    · split <;> exact ⟨_, rfl⟩
  | pass => exact absurd rfl hi

/-! ## The sample step, field by field -/

/-- The last sample ends the PASS; before it nothing else changes (R100). -/
theorem finishIfDone_cases (s : State) :
    (s.todo = [] ∧ finishIfDone s = finish s) ∨ (s.todo ≠ [] ∧ finishIfDone s = s) := by
  unfold finishIfDone
  split
  · next h => exact .inl ⟨h, rfl⟩
  · next h => exact .inr ⟨h, rfl⟩

@[simp] theorem finishIfDone_opa (s : State) : (finishIfDone s).opa = s.opa := by
  unfold finishIfDone; split <;> rfl
@[simp] theorem finishIfDone_opb (s : State) : (finishIfDone s).opb = s.opb := by
  unfold finishIfDone; split <;> rfl
@[simp] theorem finishIfDone_result (s : State) : (finishIfDone s).result = s.result := by
  unfold finishIfDone; split <;> rfl
@[simp] theorem finishIfDone_width (s : State) : (finishIfDone s).width = s.width := by
  unfold finishIfDone; split <;> rfl
@[simp] theorem finishIfDone_height (s : State) : (finishIfDone s).height = s.height := by
  unfold finishIfDone; split <;> rfl
@[simp] theorem finishIfDone_channels (s : State) : (finishIfDone s).channels = s.channels := by
  unfold finishIfDone; split <;> rfl
@[simp] theorem finishIfDone_colors (s : State) : (finishIfDone s).colors = s.colors := by
  unfold finishIfDone; split <;> rfl
@[simp] theorem finishIfDone_order (s : State) : (finishIfDone s).order = s.order := by
  unfold finishIfDone; split <;> rfl
@[simp] theorem finishIfDone_srcBase (s : State) : (finishIfDone s).srcBase = s.srcBase := by
  unfold finishIfDone; split <;> rfl
@[simp] theorem finishIfDone_dstBase (s : State) : (finishIfDone s).dstBase = s.dstBase := by
  unfold finishIfDone; split <;> rfl
@[simp] theorem finishIfDone_pend (s : State) : (finishIfDone s).pend = s.pend := by
  unfold finishIfDone; split <;> rfl
@[simp] theorem finishIfDone_todo (s : State) : (finishIfDone s).todo = s.todo := by
  unfold finishIfDone; split <;> simp_all
@[simp] theorem finishIfDone_kReg (s : State) : (finishIfDone s).kReg = s.kReg := by
  unfold finishIfDone; split <;> rfl
@[simp] theorem finishIfDone_mem (s : State) : (finishIfDone s).mem = s.mem := by
  unfold finishIfDone; split <;> rfl
@[simp] theorem finishIfDone_memLast (s : State) : (finishIfDone s).memLast = s.memLast := by
  unfold finishIfDone; split <;> rfl
@[simp] theorem finishIfDone_errLog (s : State) : (finishIfDone s).errLog = s.errLog := by
  unfold finishIfDone; split <;> rfl
@[simp] theorem finishIfDone_schedule (s : State) : (finishIfDone s).schedule = s.schedule := by
  unfold finishIfDone; split <;> rfl
@[simp] theorem finishIfDone_picks (s : State) : (finishIfDone s).picks = s.picks := by
  unfold finishIfDone; split <;> rfl
@[simp] theorem finishIfDone_draws (s : State) : (finishIfDone s).draws = s.draws := by
  unfold finishIfDone; split <;> rfl
@[simp] theorem finishIfDone_replies (s : State) : (finishIfDone s).replies = s.replies := by
  unfold finishIfDone; split <;> rfl
@[simp] theorem finishIfDone_ahead (s : State) : (finishIfDone s).ahead = if s.todo = [] then [] else s.ahead := by
  unfold finishIfDone; split <;> rfl

@[simp] theorem storeSample_ahead (idx : Nat) (s : State) :
    (storeSample idx s).ahead = s.ahead.filter (·.1 != idx) := rfl
@[simp] theorem storeSample_todo (idx : Nat) (s : State) : (storeSample idx s).todo = s.todo.filter (· != idx) := rfl
@[simp] theorem storeSample_mem (idx : Nat) (s : State) :
    (storeSample idx s).mem = sampledMemory s idx := rfl
@[simp] theorem storeSample_picks (idx : Nat) (s : State) : (storeSample idx s).picks = s.picks.tail := rfl
@[simp] theorem storeSample_draws (idx : Nat) (s : State) : (storeSample idx s).draws = s.draws + 1 := rfl
@[simp] theorem storeSample_status (idx : Nat) (s : State) : (storeSample idx s).status = s.status := rfl
@[simp] theorem storeSample_opa (idx : Nat) (s : State) : (storeSample idx s).opa = s.opa := rfl
@[simp] theorem storeSample_opb (idx : Nat) (s : State) : (storeSample idx s).opb = s.opb := rfl
@[simp] theorem storeSample_result (idx : Nat) (s : State) : (storeSample idx s).result = s.result := rfl
@[simp] theorem storeSample_width (idx : Nat) (s : State) : (storeSample idx s).width = s.width := rfl
@[simp] theorem storeSample_height (idx : Nat) (s : State) : (storeSample idx s).height = s.height := rfl
@[simp] theorem storeSample_channels (idx : Nat) (s : State) : (storeSample idx s).channels = s.channels := rfl
@[simp] theorem storeSample_colors (idx : Nat) (s : State) : (storeSample idx s).colors = s.colors := rfl
@[simp] theorem storeSample_order (idx : Nat) (s : State) : (storeSample idx s).order = s.order := rfl
@[simp] theorem storeSample_srcBase (idx : Nat) (s : State) : (storeSample idx s).srcBase = s.srcBase := rfl
@[simp] theorem storeSample_dstBase (idx : Nat) (s : State) : (storeSample idx s).dstBase = s.dstBase := rfl
@[simp] theorem storeSample_pend (idx : Nat) (s : State) : (storeSample idx s).pend = s.pend := rfl
@[simp] theorem storeSample_kReg (idx : Nat) (s : State) : (storeSample idx s).kReg = s.kReg := rfl
@[simp] theorem storeSample_memLast (idx : Nat) (s : State) : (storeSample idx s).memLast = s.memLast := rfl
@[simp] theorem storeSample_errLog (idx : Nat) (s : State) : (storeSample idx s).errLog = s.errLog := rfl
@[simp] theorem storeSample_schedule (idx : Nat) (s : State) : (storeSample idx s).schedule = s.schedule := rfl
@[simp] theorem storeSample_replies (idx : Nat) (s : State) : (storeSample idx s).replies = s.replies := rfl

end Sys2Proof.Machine
end

