-- ==== Sys2Proof/Laws/Pass.lean ====
section
/-! SUPPORT. The checks of PASS: what they depend on and what passing them gives (spec 43_pass.md R96, R97). -/

namespace Sys2Proof.Machine

/-- The word of PASS decodes to PASS (30_encoding.md R65). -/
@[simp] theorem decode_passWord : decode passWord = .ok .pass := by decide

/-- S depends on WIDTH, HEIGHT and CHANNELS only. -/
theorem passSamples_congr {s t : State} (h1 : t.width = s.width) (h2 : t.height = s.height)
    (h3 : t.channels = s.channels) : passSamples t = passSamples s := by
  unfold passSamples
  rw [h1, h2, h3]

/-- The checks depend on the configuration registers and MEM_BYTES only (R96). -/
theorem passError_congr {s t : State} (h1 : t.width = s.width) (h2 : t.height = s.height)
    (h3 : t.channels = s.channels) (h4 : t.colors = s.colors) (h5 : t.srcBase = s.srcBase)
    (h6 : t.dstBase = s.dstBase) (h7 : t.memLast = s.memLast) : passError t = passError s := by
  simp only [passError, outOfRange, buffersOverlap, passSamples, State.operandColors, State.memBytes, h1, h2, h3,
    h4, h5, h6, h7]
  rfl

/-- What the checks establish when all of them pass (R97). -/
theorem passError_none {s : State} (h : passError s = none) :
    s.width = s.height ∧ isPow2 s.width = true ∧ findMSB s.width ≤ 16 ∧ s.channels ≠ 0 ∧ 2 ≤ s.colors.toNat ∧
      s.srcBase.toNat + passSamples s ≤ s.memBytes ∧ s.dstBase.toNat + passSamples s ≤ s.memBytes ∧
      (s.dstBase.toNat + passSamples s ≤ s.srcBase.toNat ∨ s.srcBase.toNat + passSamples s ≤ s.dstBase.toNat) := by
  unfold passError at h
  split at h
  · cases h
  split at h
  · cases h
  split at h
  · cases h
  split at h
  · cases h
  split at h
  · cases h
  split at h
  · cases h
  rename_i h1 h2 h3 h4 h5 h6
  simp only [Config.maxOrder, State.operandColors, outOfRange, buffersOverlap, not_or, Bool.or_eq_true,
    Bool.and_eq_true, decide_eq_true_eq] at *
  exact ⟨by simpa using h1, by simpa using h2, by omega, h4.1, by omega, by omega, by omega, by omega⟩

/-- STATUS after a sample step: `finish()` in the step of the last sample (R100). -/
theorem finishIfDone_status (s : State) :
    (finishIfDone s).status = if s.todo = [] then s.status.finished else s.status := by
  unfold finishIfDone
  split <;> rfl

/-- One byte of memory after a sample step's store, which is left out where the byte is already written (R98, R102). -/
theorem readByte_sampledMemory (s : State) (idx a : Nat) :
    (sampledMemory s idx).readByte a =
      if a = destAddress s idx ∧ s.ahead.lookup idx ≠ some .written then sampleOutput s idx else s.byteAt a := by
  unfold sampledMemory
  split
  · next h => rw [if_neg (by simp [h])]; rfl
  · next h => rw [Memory.readByte_writeByte]; simp [h, State.byteAt]
  · next h => rw [Memory.readByte_writeByte]; simp [h, State.byteAt]

/-- One byte after a sample step: the output at the destination address, every other byte as before (R98, R102). -/
theorem byteAt_sample (idx : Nat) (s : State) (a : Nat) :
    (finishIfDone (storeSample idx s)).byteAt a =
      if a = destAddress s idx ∧ s.ahead.lookup idx ≠ some .written then sampleOutput s idx else s.byteAt a := by
  rw [← readByte_sampledMemory]
  unfold State.byteAt
  simp

end Sys2Proof.Machine
end

