-- ==== Sys2Proof/Laws/PerInstr.lean ====
section
/-! SUPPORT. Facts about every command as syntax, one lemma per constructor: the encoded word matches the command's
row of the opcode table (spec 30_encoding.md R65). -/

namespace Sys2Proof.Laws.RowMatch

/-- The word of a well-formed command has its row's match under its row's mask. -/
def Statement (i : Instr) : Prop := WellFormed i → encode i &&& rowMask i = rowMatch i

theorem ispow2 : Statement .ispow2 := fun _ => by decide

theorem findmsb : Statement .findmsb := fun _ => by decide

theorem dilate : Statement .dilate := fun _ => by decide

theorem bitrev : Statement .bitrev := fun _ => by decide

theorem xoril : Statement .xoril := fun _ => by decide

/-- An order below 32 lies outside the masked bits. -/
theorem order_masked {k : Nat} (h : k < 32) (m : Word) (hm : m &&& 0xFFFFE0FF = m) :
    ((BitVec.ofNat 32 k <<< 8) ||| m) &&& 0xFFFFE0FF = m := by
  have h0 : (BitVec.ofNat 32 k <<< 8) &&& 0xFFFFE0FF = 0 := by
    have : ∀ j : Fin 32, (BitVec.ofNat 32 j.val <<< 8) &&& 0xFFFFE0FF = 0#32 := by decide
    exact this ⟨k, h⟩
  rw [BitVec.and_comm, BitVec.and_or_distrib_left, BitVec.and_comm _ (BitVec.ofNat 32 k <<< 8), h0,
    BitVec.and_comm _ m, hm]
  simp

theorem bayer (k : Nat) : Statement (.bayer k) := fun h =>
  order_masked (k := k) (of_decide_eq_true h) 0x00000006 (by decide)

theorem quant (k : Nat) : Statement (.quant k) := fun h =>
  order_masked (k := k) (of_decide_eq_true h) 0x00000007 (by decide)

theorem pass : Statement .pass := fun _ => by decide

end Sys2Proof.Laws.RowMatch
end

