-- ==== Sys2Proof/Laws/Step.lean ====
section
/-! SUPPORT. What the host's transactions and a step can do, said once (spec 10_state.md R35 to R39). -/

namespace Sys2Proof.Machine

/-! ## Register writes -/

@[simp] theorem writeReg_result (r : Reg) (v : Word) (s : State) : (writeReg r v s).result = s.result := by
  unfold writeReg; split
  · rfl
  · split
    · rfl
    · cases r <;> rfl
@[simp] theorem writeReg_order (r : Reg) (v : Word) (s : State) : (writeReg r v s).order = s.order := by
  unfold writeReg; split
  · rfl
  · split
    · rfl
    · cases r <;> rfl
@[simp] theorem writeReg_todo (r : Reg) (v : Word) (s : State) : (writeReg r v s).todo = s.todo := by
  unfold writeReg; split
  · rfl
  · split
    · rfl
    · cases r <;> rfl
@[simp] theorem writeReg_kReg (r : Reg) (v : Word) (s : State) : (writeReg r v s).kReg = s.kReg := by
  unfold writeReg; split
  · rfl
  · split
    · rfl
    · cases r <;> rfl
@[simp] theorem writeReg_mem (r : Reg) (v : Word) (s : State) : (writeReg r v s).mem = s.mem := by
  unfold writeReg; split
  · rfl
  · split
    · rfl
    · cases r <;> rfl
@[simp] theorem writeReg_memLast (r : Reg) (v : Word) (s : State) : (writeReg r v s).memLast = s.memLast := by
  unfold writeReg; split
  · rfl
  · split
    · rfl
    · cases r <;> rfl
@[simp] theorem writeReg_errLog (r : Reg) (v : Word) (s : State) : (writeReg r v s).errLog = s.errLog := by
  unfold writeReg; split
  · rfl
  · split
    · rfl
    · cases r <;> rfl
@[simp] theorem writeReg_schedule (r : Reg) (v : Word) (s : State) : (writeReg r v s).schedule = s.schedule := by
  unfold writeReg; split
  · rfl
  · split
    · rfl
    · cases r <;> rfl
@[simp] theorem writeReg_picks (r : Reg) (v : Word) (s : State) : (writeReg r v s).picks = s.picks := by
  unfold writeReg; split
  · rfl
  · split
    · rfl
    · cases r <;> rfl
@[simp] theorem writeReg_draws (r : Reg) (v : Word) (s : State) : (writeReg r v s).draws = s.draws := by
  unfold writeReg; split
  · rfl
  · split
    · rfl
    · cases r <;> rfl
@[simp] theorem writeReg_replies (r : Reg) (v : Word) (s : State) : (writeReg r v s).replies = s.replies := by
  unfold writeReg; split
  · rfl
  · split
    · rfl
    · cases r <;> rfl
@[simp] theorem writeReg_ahead (r : Reg) (v : Word) (s : State) : (writeReg r v s).ahead = s.ahead := by
  unfold writeReg; split
  · rfl
  · split
    · rfl
    · cases r <;> rfl

/-- A host write reaches no register, or writes one (20_memory.md R47). -/
theorem busWrite_cases (w : AccessWidth) (off : BitVec 6) (v : Word) (s : State) :
    busWrite w off v s = s ∨ ∃ r, accessedReg w off = some r ∧ busWrite w off v s = writeReg r v s := by
  unfold busWrite
  split
  · exact .inl rfl
  · next r h => exact .inr ⟨r, h, rfl⟩

@[simp] theorem busWrite_result (w : AccessWidth) (off : BitVec 6) (v : Word) (s : State) :
    (busWrite w off v s).result = s.result := by
  rcases busWrite_cases w off v s with e | ⟨r, -, e⟩ <;> rw [e]
  exact writeReg_result r v s
@[simp] theorem busWrite_order (w : AccessWidth) (off : BitVec 6) (v : Word) (s : State) :
    (busWrite w off v s).order = s.order := by
  rcases busWrite_cases w off v s with e | ⟨r, -, e⟩ <;> rw [e]
  exact writeReg_order r v s
@[simp] theorem busWrite_todo (w : AccessWidth) (off : BitVec 6) (v : Word) (s : State) :
    (busWrite w off v s).todo = s.todo := by
  rcases busWrite_cases w off v s with e | ⟨r, -, e⟩ <;> rw [e]
  exact writeReg_todo r v s
@[simp] theorem busWrite_kReg (w : AccessWidth) (off : BitVec 6) (v : Word) (s : State) :
    (busWrite w off v s).kReg = s.kReg := by
  rcases busWrite_cases w off v s with e | ⟨r, -, e⟩ <;> rw [e]
  exact writeReg_kReg r v s
@[simp] theorem busWrite_mem (w : AccessWidth) (off : BitVec 6) (v : Word) (s : State) :
    (busWrite w off v s).mem = s.mem := by
  rcases busWrite_cases w off v s with e | ⟨r, -, e⟩ <;> rw [e]
  exact writeReg_mem r v s
@[simp] theorem busWrite_memLast (w : AccessWidth) (off : BitVec 6) (v : Word) (s : State) :
    (busWrite w off v s).memLast = s.memLast := by
  rcases busWrite_cases w off v s with e | ⟨r, -, e⟩ <;> rw [e]
  exact writeReg_memLast r v s
@[simp] theorem busWrite_errLog (w : AccessWidth) (off : BitVec 6) (v : Word) (s : State) :
    (busWrite w off v s).errLog = s.errLog := by
  rcases busWrite_cases w off v s with e | ⟨r, -, e⟩ <;> rw [e]
  exact writeReg_errLog r v s
@[simp] theorem busWrite_schedule (w : AccessWidth) (off : BitVec 6) (v : Word) (s : State) :
    (busWrite w off v s).schedule = s.schedule := by
  rcases busWrite_cases w off v s with e | ⟨r, -, e⟩ <;> rw [e]
  exact writeReg_schedule r v s
@[simp] theorem busWrite_picks (w : AccessWidth) (off : BitVec 6) (v : Word) (s : State) :
    (busWrite w off v s).picks = s.picks := by
  rcases busWrite_cases w off v s with e | ⟨r, -, e⟩ <;> rw [e]
  exact writeReg_picks r v s
@[simp] theorem busWrite_draws (w : AccessWidth) (off : BitVec 6) (v : Word) (s : State) :
    (busWrite w off v s).draws = s.draws := by
  rcases busWrite_cases w off v s with e | ⟨r, -, e⟩ <;> rw [e]
  exact writeReg_draws r v s
@[simp] theorem busWrite_replies (w : AccessWidth) (off : BitVec 6) (v : Word) (s : State) :
    (busWrite w off v s).replies = s.replies := by
  rcases busWrite_cases w off v s with e | ⟨r, -, e⟩ <;> rw [e]
  exact writeReg_replies r v s
@[simp] theorem busWrite_ahead (w : AccessWidth) (off : BitVec 6) (v : Word) (s : State) :
    (busWrite w off v s).ahead = s.ahead := by
  rcases busWrite_cases w off v s with e | ⟨r, -, e⟩ <;> rw [e]
  exact writeReg_ahead r v s

/-- While BUSY = 1 a host write to a register changes STATUS only (10_state.md R36, R37). -/
theorem writeReg_busy {s : State} (h : s.status.busy = true) (r : Reg) (v : Word) :
    ∃ st, writeReg r v s = { s with status := st } ∧ st.busy = s.status.busy ∧ st.done = s.status.done ∧
      st.err = s.status.err ∧ st.errcode = s.status.errcode := by
  unfold writeReg
  split
  · exact ⟨_, rfl, by simp⟩
  · exact ⟨s.status.overrun, rfl, rfl, rfl, rfl, rfl⟩

theorem busWrite_busy {s : State} (h : s.status.busy = true) (w : AccessWidth) (off : BitVec 6) (v : Word) :
    ∃ st, busWrite w off v s = { s with status := st } ∧ st.busy = s.status.busy ∧ st.done = s.status.done ∧
      st.err = s.status.err ∧ st.errcode = s.status.errcode := by
  rcases busWrite_cases w off v s with e | ⟨r, -, e⟩
  · exact ⟨s.status, e, rfl, rfl, rfl, rfl⟩
  · rw [e]
    exact writeReg_busy h r v

/-! ## Turns -/

@[simp] theorem nextTurn_status (s : State) : (nextTurn s).2.status = s.status := by
  unfold nextTurn; split <;> rfl
@[simp] theorem nextTurn_opa (s : State) : (nextTurn s).2.opa = s.opa := by
  unfold nextTurn; split <;> rfl
@[simp] theorem nextTurn_opb (s : State) : (nextTurn s).2.opb = s.opb := by
  unfold nextTurn; split <;> rfl
@[simp] theorem nextTurn_result (s : State) : (nextTurn s).2.result = s.result := by
  unfold nextTurn; split <;> rfl
@[simp] theorem nextTurn_width (s : State) : (nextTurn s).2.width = s.width := by
  unfold nextTurn; split <;> rfl
@[simp] theorem nextTurn_height (s : State) : (nextTurn s).2.height = s.height := by
  unfold nextTurn; split <;> rfl
@[simp] theorem nextTurn_channels (s : State) : (nextTurn s).2.channels = s.channels := by
  unfold nextTurn; split <;> rfl
@[simp] theorem nextTurn_colors (s : State) : (nextTurn s).2.colors = s.colors := by
  unfold nextTurn; split <;> rfl
@[simp] theorem nextTurn_order (s : State) : (nextTurn s).2.order = s.order := by
  unfold nextTurn; split <;> rfl
@[simp] theorem nextTurn_srcBase (s : State) : (nextTurn s).2.srcBase = s.srcBase := by
  unfold nextTurn; split <;> rfl
@[simp] theorem nextTurn_dstBase (s : State) : (nextTurn s).2.dstBase = s.dstBase := by
  unfold nextTurn; split <;> rfl
@[simp] theorem nextTurn_pend (s : State) : (nextTurn s).2.pend = s.pend := by
  unfold nextTurn; split <;> rfl
@[simp] theorem nextTurn_todo (s : State) : (nextTurn s).2.todo = s.todo := by
  unfold nextTurn; split <;> rfl
@[simp] theorem nextTurn_kReg (s : State) : (nextTurn s).2.kReg = s.kReg := by
  unfold nextTurn; split <;> rfl
@[simp] theorem nextTurn_mem (s : State) : (nextTurn s).2.mem = s.mem := by
  unfold nextTurn; split <;> rfl
@[simp] theorem nextTurn_memLast (s : State) : (nextTurn s).2.memLast = s.memLast := by
  unfold nextTurn; split <;> rfl
@[simp] theorem nextTurn_errLog (s : State) : (nextTurn s).2.errLog = s.errLog := by
  unfold nextTurn; split <;> rfl
@[simp] theorem nextTurn_picks (s : State) : (nextTurn s).2.picks = s.picks := by
  unfold nextTurn; split <;> rfl
@[simp] theorem nextTurn_draws (s : State) : (nextTurn s).2.draws = s.draws := by
  unfold nextTurn; split <;> rfl
@[simp] theorem nextTurn_replies (s : State) : (nextTurn s).2.replies = s.replies := by
  unfold nextTurn; split <;> rfl
@[simp] theorem nextTurn_ahead (s : State) : (nextTurn s).2.ahead = s.ahead := by
  unfold nextTurn; split <;> rfl

/-- The schedule gives up its head (log entry 4). -/
@[simp] theorem nextTurn_schedule (s : State) : (nextTurn s).2.schedule = s.schedule.tail := by
  unfold nextTurn; split <;> simp_all

theorem nextTurn_nil {s : State} (h : s.schedule = []) : nextTurn s = (.core, s) := by
  unfold nextTurn; rw [h]

theorem nextTurn_cons {s : State} {t : Turn} {rest : List Turn} (h : s.schedule = t :: rest) :
    nextTurn s = (t, { s with schedule := rest }) := by
  unfold nextTurn; rw [h]

/-- Every next state of the core's turn (10_state.md R39). -/
theorem coreStep_next {s t : State} (h : coreStep s = .next t) :
    (s.status.busy = false ∧ t = s) ∨
      (s.status.busy = true ∧ ∃ i, decode s.pend = .ok i ∧ exec i s = .next t) ∨
      (s.status.busy = true ∧ (∃ r, decode s.pend = .error r) ∧ t = raiseError .illegal s) := by
  unfold coreStep at h
  split at h
  · next hb =>
    split at h
    · next i hi => exact .inr (.inl ⟨hb, i, hi, h⟩)
    · next r hr => cases h; exact .inr (.inr ⟨hb, ⟨r, hr⟩, rfl⟩)
  · next hb => cases h; exact .inl ⟨by simpa using hb, rfl⟩

/-- Every next state of a host action. -/
theorem hostStep_next {a : HostAction} {s t : State} (h : hostStep a s = .next t) :
    (∃ w off, a = .read w off ∧ t = s.reply (.word (busRead w off s))) ∨
      (∃ w off v, a = .write w off v ∧ t = busWrite w off v s) ∨
      (∃ addr, a = .memRead addr ∧ addr < s.memBytes ∧ t = hostLoad addr s) ∨
      (∃ addr v, a = .memWrite addr v ∧ addr < s.memBytes ∧ t = hostStore addr v s) ∨
      (a = .reset ∧ t = assertReset s) := by
  cases a with
  | read w off => cases h; exact .inl ⟨w, off, rfl, rfl⟩
  | write w off v => cases h; exact .inr (.inl ⟨w, off, v, rfl, rfl⟩)
  | memRead addr =>
    simp only [hostStep] at h
    split at h <;> cases h
    exact .inr (.inr (.inl ⟨addr, rfl, by omega, rfl⟩))
  | memWrite addr v =>
    simp only [hostStep] at h
    split at h <;> cases h
    exact .inr (.inr (.inr (.inl ⟨addr, v, rfl, by omega, rfl⟩)))
  | reset => cases h; exact .inr (.inr (.inr (.inr ⟨rfl, rfl⟩)))

/-- Every next state of a step: the core's turn or a host action, in the state without the turn taken. -/
theorem step_next {s t : State} (h : step s = .next t) :
    ((nextTurn s).1 = .core ∧ coreStep (nextTurn s).2 = .next t) ∨
      ∃ a, (nextTurn s).1 = .host a ∧ hostStep a (nextTurn s).2 = .next t := by
  unfold step takeTurn at h
  split at h
  · next ht => exact .inl ⟨ht, h⟩
  · next a ht => exact .inr ⟨a, ht, h⟩

end Sys2Proof.Machine
end

