-- ==== Sys2Proof/Laws/Race.lean ====
section
/-! SUPPORT. What a host access to sample memory can do, races with a running PASS included (spec 20_memory.md R54). -/

namespace Sys2Proof.Machine

/-- When a PASS that passes its checks is running. -/
theorem State.passRuns_iff {s : State} :
    s.passRuns = true ↔ s.status.busy = true ∧ s.pend = passWord ∧ passError s = none := by
  have : encode .pass = passWord := by decide
  simp [State.passRuns, this, and_assoc]

/-- When an index is still to be processed. -/
theorem State.unprocessed_iff {s : State} {idx : Nat} :
    s.unprocessed idx = true ↔ idx < passSamples s ∧ (s.todo = [] ∨ idx ∈ s.todo) := by
  simp [State.unprocessed]

/-- When an address is that of an unprocessed index in a buffer of a running PASS. -/
theorem bufferIndex_eq_some {s : State} {base : Word} {a idx : Nat} :
    bufferIndex s base a = some idx ↔
      s.passRuns = true ∧ a = base.toNat + idx ∧ s.unprocessed idx = true := by
  unfold bufferIndex
  split
  · next h =>
    simp only [Bool.and_eq_true, decide_eq_true_eq] at h
    rw [Option.some_inj]
    constructor
    · rintro rfl
      exact ⟨h.1.1, by omega, h.2⟩
    · rintro ⟨-, rfl, -⟩
      omega
  · next h =>
    simp only [Bool.and_eq_true, decide_eq_true_eq] at h
    constructor
    · intro hn; cases hn
    · rintro ⟨h1, rfl, h3⟩
      exact absurd ⟨⟨h1, by omega⟩, by simpa using h3⟩ h

/-- A source byte still to be read by the core. -/
theorem sourceRace_eq_some {s : State} {a idx : Nat} :
    sourceRace s a = some idx ↔
      s.passRuns = true ∧ a = sourceAddress s idx ∧ s.unprocessed idx = true ∧ s.ahead.lookup idx = none := by
  simp [sourceRace, Option.filter_eq_some_iff, bufferIndex_eq_some, sourceAddress, and_assoc]

/-- A destination byte still to be written by the core. -/
theorem destRace_eq_some {s : State} {a idx : Nat} :
    destRace s a = some idx ↔
      s.passRuns = true ∧ a = destAddress s idx ∧ s.unprocessed idx = true ∧ s.ahead.lookup idx ≠ some .written := by
  simp [destRace, Option.filter_eq_some_iff, bufferIndex_eq_some, destAddress, and_assoc]

/-- One byte after the core has written an output byte ahead of its step. -/
theorem byteAt_writeAhead (idx : Nat) (s : State) (a : Nat) :
    (writeAhead idx s).byteAt a = if a = destAddress s idx then aheadOutput s idx else s.byteAt a :=
  Memory.readByte_writeByte s.mem _ _ a

@[simp] theorem byteAt_usePick (s : State) (a : Nat) : s.usePick.byteAt a = s.byteAt a := rfl

/-- The two outcomes of a draw. -/
theorem drawRace_cases (access : State → State) (s : State) :
    (s.pick % 2 = 1 ∧ drawRace access s = access s.usePick) ∨
      (s.pick % 2 ≠ 1 ∧ drawRace access s = s.usePick) := by
  unfold drawRace
  split
  · next h => exact .inl ⟨h, rfl⟩
  · next h => exact .inr ⟨h, rfl⟩

/-- Everything a host access to a destination byte can find: no race, the core's write still to come, or the core's
write put before it. -/
theorem raceOnDest_cases (a : Nat) (s : State) :
    (destRace s a = none ∧ raceOnDest a s = s) ∨
      ∃ idx, destRace s a = some idx ∧
        ((s.pick % 2 = 1 ∧ raceOnDest a s = writeAhead idx s.usePick) ∨
          (s.pick % 2 ≠ 1 ∧ raceOnDest a s = s.usePick)) := by
  unfold raceOnDest
  split
  · next h => exact .inl ⟨h, rfl⟩
  · next idx h => exact .inr ⟨idx, h, drawRace_cases (writeAhead idx) s⟩

/-- Everything a host write can find: a race with the core's read of a source byte, or what an access to a destination
byte finds. -/
theorem raceOnWrite_cases (a : Nat) (s : State) :
    (sourceRace s a = none ∧ raceOnWrite a s = raceOnDest a s) ∨
      ∃ idx, sourceRace s a = some idx ∧
        ((s.pick % 2 = 1 ∧ raceOnWrite a s = readAhead idx s.usePick) ∨
          (s.pick % 2 ≠ 1 ∧ raceOnWrite a s = s.usePick)) := by
  unfold raceOnWrite
  split
  · next h => exact .inl ⟨h, rfl⟩
  · next idx h => exact .inr ⟨idx, h, drawRace_cases (readAhead idx) s⟩

/-- The fields a race can change. -/
theorem raceOnDest_frame (a : Nat) (s : State) :
    ∃ m ah p d, raceOnDest a s = { s with mem := m, ahead := ah, picks := p, draws := d } := by
  rcases raceOnDest_cases a s with ⟨-, h⟩ | ⟨idx, -, ⟨-, h⟩ | ⟨-, h⟩⟩ <;> rw [h] <;> exact ⟨_, _, _, _, rfl⟩

/-- The fields a race can change. -/
theorem raceOnWrite_frame (a : Nat) (s : State) :
    ∃ m ah p d, raceOnWrite a s = { s with mem := m, ahead := ah, picks := p, draws := d } := by
  rcases raceOnWrite_cases a s with ⟨-, h⟩ | ⟨idx, -, ⟨-, h⟩ | ⟨-, h⟩⟩ <;> rw [h]
  · exact raceOnDest_frame a s
  · exact ⟨_, _, _, _, rfl⟩
  · exact ⟨_, _, _, _, rfl⟩

/-- A race changes no byte but the one accessed. -/
theorem byteAt_raceOnDest {a b : Nat} (h : b ≠ a) (s : State) : (raceOnDest a s).byteAt b = s.byteAt b := by
  rcases raceOnDest_cases a s with ⟨-, e⟩ | ⟨idx, hd, ⟨-, e⟩ | ⟨-, e⟩⟩ <;> rw [e]
  · have ha := (destRace_eq_some.1 hd).2.1
    rw [byteAt_writeAhead, if_neg (by rw [ha] at h; exact h), byteAt_usePick]
  · rfl

/-- A race changes no byte but the one accessed. -/
theorem byteAt_raceOnWrite {a b : Nat} (h : b ≠ a) (s : State) : (raceOnWrite a s).byteAt b = s.byteAt b := by
  rcases raceOnWrite_cases a s with ⟨-, e⟩ | ⟨idx, -, ⟨-, e⟩ | ⟨-, e⟩⟩ <;> rw [e]
  · exact byteAt_raceOnDest h s
  · rfl
  · rfl

/-- The fields a host read of sample memory can change, and its reply. -/
theorem hostLoad_frame (a : Nat) (s : State) :
    ∃ m ah p d b, hostLoad a s =
      { s with mem := m, ahead := ah, picks := p, draws := d, replies := s.replies ++ [.byte b] } := by
  obtain ⟨m, ah, p, d, h⟩ := raceOnDest_frame a s
  exact ⟨m, ah, p, d, (raceOnDest a s).byteAt a, by unfold hostLoad; rw [h]; rfl⟩

/-- The fields a host write of sample memory can change. -/
theorem hostStore_frame (a : Nat) (v : Byte) (s : State) :
    ∃ m ah p d, hostStore a v s = { s with mem := m, ahead := ah, picks := p, draws := d } := by
  obtain ⟨m, ah, p, d, h⟩ := raceOnWrite_frame a s
  exact ⟨m.writeByte a v, ah, p, d, by unfold hostStore; rw [h]; rfl⟩

/-- A host read changes at most the byte it reads (R54: when the draw puts the core's write before it). -/
theorem byteAt_hostLoad {a b : Nat} (h : b ≠ a) (s : State) : (hostLoad a s).byteAt b = s.byteAt b :=
  byteAt_raceOnDest h s

/-- A host write changes the byte it writes and no other. -/
theorem byteAt_hostStore (a : Nat) (v : Byte) (s : State) (b : Nat) :
    (hostStore a v s).byteAt b = if b = a then v else s.byteAt b := by
  unfold hostStore
  rw [State.byteAt_storeByte]
  split
  · rfl
  · next h => exact byteAt_raceOnWrite h s

/-- A host read that races with nothing. -/
theorem hostLoad_of_noRace {a : Nat} {s : State} (h : destRace s a = none) :
    hostLoad a s = s.reply (.byte (s.byteAt a)) := by
  unfold hostLoad raceOnDest
  rw [h]

/-- A host write that races with nothing. -/
theorem hostStore_of_noRace {a : Nat} {s : State} (v : Byte) (h1 : sourceRace s a = none)
    (h2 : destRace s a = none) : hostStore a v s = s.storeByte a v := by
  unfold hostStore raceOnWrite raceOnDest
  rw [h1, h2]

end Sys2Proof.Machine
end

