-- ==== Sys2Proof/Laws/Run.lean ====
section
/-! SUPPORT. Runs of several steps (Host.Core.run), one step at a time. -/

namespace Sys2Proof.Machine

@[simp] theorem run_zero (s : State) : run 0 s = .next s := rfl

/-- One step of a run that goes on, for any machine. -/
theorem coreRun_succ_of_next (M : Host.Core) {s u : M.State} (h : M.step s = .next u) (n : Nat) :
    M.run (n + 1) s = M.run n u := by
  rw [Host.Core.run, h]

/-- A run of any machine that answered took a first step that answers. -/
theorem coreRun_succ_next (M : Host.Core) {s t : M.State} {n : Nat} (h : M.run (n + 1) s = .next t) :
    ∃ u, M.step s = .next u := by
  rw [Host.Core.run] at h
  split at h
  · next u hu => exact ⟨u, hu⟩
  · cases h
  · cases h

/-- A run whose first step answers goes on from its state. -/
theorem run_succ_of_next {s u : State} (h : step s = .next u) (n : Nat) : run (n + 1) s = run n u :=
  coreRun_succ_of_next Sys2Proof.core h n

/-- A run of one step, for any machine. -/
theorem coreRun_one (M : Host.Core) (s : M.State) : M.run 1 s = M.step s := by
  rw [Host.Core.run]
  cases h : M.step s <;> simp [Host.Core.run]

/-- A run of one step is the step. -/
theorem run_one (s : State) : run 1 s = step s := coreRun_one Sys2Proof.core s

/-- A run of one step more that answers took a first step that answers. -/
theorem run_succ_next {s t : State} {n : Nat} :
    run (n + 1) s = .next t ↔ ∃ u, step s = .next u ∧ run n u = .next t := by
  constructor
  · intro h
    obtain ⟨u, hu⟩ := coreRun_succ_next Sys2Proof.core h
    exact ⟨u, hu, (run_succ_of_next hu n).symm.trans h⟩
  · rintro ⟨u, hs, h⟩
    exact (run_succ_of_next hs n).trans h

/-- A run in two parts. -/
theorem run_add {s u : State} {m : Nat} (h : run m s = .next u) (n : Nat) : run (m + n) s = run n u := by
  induction m generalizing s with
  | zero => cases h; rw [Nat.zero_add]
  | succ m ih =>
    obtain ⟨v, hv, hr⟩ := run_succ_next.1 h
    rw [Nat.succ_add, run_succ_of_next hv, ih hr]

end Sys2Proof.Machine
end

