-- ==== Sys2Proof/Tests/Slice0.lean ====
section
/-! SUPPORT. Tests whose expected values are those of spec/95_test_vectors.md or of the rule each one names, and for each
statement with hypotheses a witness that meets them. -/

namespace Sys2Proof.Tests

open Sys2Proof Sys2Proof.Machine

/-! ## States -/

/-- After reset, with MEM_BYTES = 0x200. -/
def idle : State := { State.reset with memLast := 0x1FF }

/-- The word w has just been accepted. -/
def busy (w : Word) : State :=
  { idle with pend := w, status := { Status.reset with busy := true } }

/-- A PASS over a 2×2 image of 128s, C = 1, N = 2 (L2.8), accepted; the destination holds 0xAA (P5). -/
def image : State :=
  { busy 8 with
    width := 2, height := 2, channels := 1, colors := 2, dstBase := 0x100
    mem := [(0, 128), (1, 128), (2, 128), (3, 128), (0x100, 0xAA), (0x101, 0xAA), (0x102, 0xAA), (0x103, 0xAA)]
    picks := [2, 0, 1, 0] }

/-- The same PASS after its checks. -/
def running : State := passStart image

/-! ## Well-formedness: each check refuses an ill-formed term -/

theorem test_wellFormed_refuses_bayer_32 : ¬ WellFormed (.bayer 32) := by decide

theorem test_wellFormed_refuses_quant_32 : ¬ WellFormed (.quant 32) := by decide

/-! ## Decoding: words written out from R59 and R65 (RSV, ORD, OP) -/

theorem test_decode_ispow2 : decode 0b0000000000000000000_00000_00000001 = .ok .ispow2 := by decide

theorem test_decode_findmsb : decode 0b0000000000000000000_00000_00000010 = .ok .findmsb := by decide

theorem test_decode_dilate : decode 0b0000000000000000000_00000_00000011 = .ok .dilate := by decide

theorem test_decode_bitrev : decode 0b0000000000000000000_00000_00000100 = .ok .bitrev := by decide

theorem test_decode_xoril : decode 0b0000000000000000000_00000_00000101 = .ok .xoril := by decide

theorem test_decode_bayer : decode 0b0000000000000000000_10001_00000110 = .ok (.bayer 17) := by decide

theorem test_decode_quant : decode 0b0000000000000000000_10000_00000111 = .ok (.quant 16) := by decide

theorem test_decode_pass : decode 0b0000000000000000000_00000_00001000 = .ok .pass := by decide

theorem test_decode_rsv_bit31 : decode 0x80000007 = .error .reservedBits := by decide

theorem test_encode_bayer_2 : encode (.bayer 2) = 0x00000206 := by decide

theorem test_decodeTableWord_cuts_bits : decodeTableWord 32 0x100000206 = some (.bayer 2) := by decide

/-! ## The commands (95_test_vectors.md L2.2 to L2.8) -/

theorem test_ispow2_zero : ∃ t, exec .ispow2 (busy 1) = .next t ∧ t.result = 0 ∧ t.status.word = 2 :=
  ⟨_, rfl, by decide, by decide⟩

theorem test_ispow2_top_bit :
    ∃ t, exec .ispow2 { busy 1 with opa := 0x80000000 } = .next t ∧ t.result = 1 := ⟨_, rfl, by decide⟩

theorem test_findmsb_not_power : ∃ t, exec .findmsb { busy 2 with opa := 6 } = .next t ∧ t.result = 2 :=
  ⟨_, rfl, by decide⟩

theorem test_findmsb_zero :
    ∃ t, exec .findmsb { busy 2 with result := 7 } = .next t ∧ t.result = 7 ∧ t.status.word = 0x64 :=
  ⟨_, rfl, by decide, by decide⟩

theorem test_dilate : ∃ t, exec .dilate { busy 3 with opa := 0xFFFFABCD } = .next t ∧ t.result = 0x44455051 :=
  ⟨_, rfl, by decide +kernel⟩

theorem test_bitrev : ∃ t, exec .bitrev { busy 4 with opa := 0x12345678 } = .next t ∧ t.result = 0x1E6A2C48 :=
  ⟨_, rfl, by decide +kernel⟩

theorem test_xoril :
    ∃ t, exec .xoril { busy 5 with opa := 0x12345, opb := 0x6789 } = .next t ∧ t.result = 0x383AD0D2 :=
  ⟨_, rfl, by decide +kernel⟩

theorem test_bayer_2 : ∃ t, exec (.bayer 2) { busy 0x206 with opa := 2, opb := 3 } = .next t ∧ t.result = 13 :=
  ⟨_, rfl, by decide +kernel⟩

theorem test_bayer_16_row :
    ∃ t, exec (.bayer 16) { busy 0x1006 with opb := 0xFFFFFFFF } = .next t ∧ t.result = 0xFFFFFFFF :=
  ⟨_, rfl, by decide +kernel⟩

theorem test_quant_exact_arithmetic :
    ∃ t, exec (.quant 10) { busy 0xA07 with opa := 48, opb := 592137, colors := 4 } = .next t ∧ t.result = 85 :=
  ⟨_, rfl, by decide +kernel⟩

theorem test_quant_boundary_order_16 :
    ∃ t, exec (.quant 16) { busy 0x1007 with opa := 128, opb := 0x80808081, colors := 2 } = .next t ∧
      t.result = 0 := ⟨_, rfl, by decide +kernel⟩

/-- L2.8: 2×2, C = 1, N = 2, all 128 gives [255, 255 / 0, 255], ORDER = 1, here in the order 2, 0, 3, 1. -/
theorem test_pass_image :
    ∃ t, run 5 image = .next t ∧ t.status.word = 2 ∧ t.order = 1 ∧
      t.mem.map Prod.snd = [128, 128, 128, 128, 255, 255, 0, 255] :=
  ⟨_, rfl, by decide +kernel, by decide +kernel, by decide +kernel⟩

/-- L2.8: 4×4 with DST_BASE = 8 ends with OVERLAP. -/
theorem test_pass_overlap :
    ∃ t, exec .pass { image with width := 4, height := 4, dstBase := 8 } = .next t ∧ t.status.word = 0x84 :=
  ⟨_, rfl, by decide +kernel⟩

/-! ## Races on the buffers of a running PASS (20_memory.md R54), at S = 1: 128 becomes 255 and 0 becomes 0 -/

/-- A 1×1 PASS, accepted, with one host access after its first n core steps and one choice for it. -/
def raced (n : Nat) (access : HostAction) (choice : Nat) : State :=
  { image with width := 1, height := 1, picks := [choice, 0], schedule := List.replicate n .core ++ [.host access] }

/-- The state after n steps that all answer. -/
def after (n : Nat) (s : State) : State :=
  match run n s with
  | .next t => t
  | .fault _ => s
  | .refused _ => s

/-- A write of a source byte: the output follows from the written or the old value. -/
theorem test_race_source_write :
    (let t := after 3 (raced 1 (.memWrite 0 0) 0)
     t.status.word = 2 ∧ t.byteAt 0x100 = 0 ∧ t.byteAt 0 = 0) ∧
    (let t := after 3 (raced 1 (.memWrite 0 0) 1)
     t.status.word = 2 ∧ t.byteAt 0x100 = 255 ∧ t.byteAt 0 = 0) ∧
    (let t := after 3 (raced 0 (.memWrite 0 0) 1)
     t.status.word = 2 ∧ t.byteAt 0x100 = 255 ∧ t.byteAt 0 = 0) := by decide +kernel

/-- A read of a destination byte: the old or the final value. -/
theorem test_race_dest_read :
    (let t := after 3 (raced 1 (.memRead 0x100) 0)
     t.status.word = 2 ∧ t.replies = [.byte 0xAA] ∧ t.byteAt 0x100 = 255) ∧
    (let t := after 3 (raced 1 (.memRead 0x100) 1)
     t.status.word = 2 ∧ t.replies = [.byte 255] ∧ t.byteAt 0x100 = 255) ∧
    (let t := after 3 (raced 0 (.memRead 0x100) 1)
     t.status.word = 2 ∧ t.replies = [.byte 255] ∧ t.byteAt 0x100 = 255) := by decide +kernel

/-- A write of a destination byte: the core's output or the host's value. -/
theorem test_race_dest_write :
    (let t := after 3 (raced 1 (.memWrite 0x100 7) 0)
     t.status.word = 2 ∧ t.byteAt 0x100 = 255) ∧
    (let t := after 3 (raced 1 (.memWrite 0x100 7) 1)
     t.status.word = 2 ∧ t.byteAt 0x100 = 7) := by decide +kernel

/-! ## The register interface (L2.9, P6, P7) -/

theorem test_write_while_busy :
    ∃ t, run 2 { busy 1 with schedule := [wr .opa 6, .core] } = .next t ∧ t.opa = 0 ∧ t.status.word = 0x0A :=
  ⟨_, rfl, by decide, by decide⟩

theorem test_clear_overrun :
    ∃ t, step { idle with status := { Status.reset with ovr := true }, schedule := [wr .status 8] } = .next t ∧
      t.status.word = 0 := ⟨_, rfl, by decide⟩

theorem test_read_back :
    ∃ t, run 2 { idle with schedule := [wr .opa 0xDEADBEEF, rd .opa] } = .next t ∧
      t.replies = [.word 0xDEADBEEF] := ⟨_, rfl, by decide⟩

/-- P7: an illegal word, then FINDMSB of 0: the log holds ILLEGAL, then ZERO. -/
theorem test_error_log :
    ∃ t, run 4 { idle with schedule := [wr .cmd 0x101, .core, cmd .findmsb, .core] } = .next t ∧
      t.errLog = [⟨.illegal, 0x101⟩, ⟨.zero, 2⟩] ∧ t.status.word = 0x64 :=
  ⟨_, rfl, by decide, by decide⟩

/-- R130: PASS as the first command after reset ends with SIZE. -/
theorem test_first_command_after_reset :
    ∃ t, step (State.reset.withFetchWord 32 8) = .next t ∧ t.status.word = 0x34 := ⟨_, rfl, by decide⟩

/-! ## Witnesses: states and operands that meet the hypotheses of each statement -/

theorem witness_EncodedCommandDecodes : WellFormed (.bayer 31) ∧ WellFormed (.quant 0) ∧ WellFormed .pass := by decide

theorem witness_DecodedWordEncodesBack : decode 0x00001F06 = .ok (.bayer 31) := by decide

theorem witness_IllegalWordsAreExactlyThese :
    ((busy 0x2006).status.busy = true ∧ decode (busy 0x2006).pend = .error .reservedBits) ∧
    ((busy 0x1106).status.busy = true ∧ decode (busy 0x1106).pend = .ok (.bayer 17) ∧
      17 ≤ (busy 0x1106).pend.toNat / 2 ^ 8 % 2 ^ 5) := by decide

theorem witness_StepRunsDecodedCommand :
    (busy 1).status.busy = true ∧ decode (busy 1).pend = .ok .ispow2 ∧ (busy 1).schedule = [] ∧
    ({ busy 1 with schedule := [.core] } : State).schedule = .core :: [] := ⟨rfl, by decide, rfl, rfl⟩

theorem witness_StepOnIllegalWordRaisesIllegal :
    (busy 0).status.busy = true ∧ decode (busy 0).pend = .error .unassignedOp ∧ (busy 0).schedule = [] ∧
    ({ busy 0 with schedule := [.core] } : State).schedule = .core :: [] := ⟨rfl, by decide, rfl, rfl⟩

theorem witness_IdleCoreChangesNothing :
    idle.status.busy = false ∧ idle.schedule = [] ∧
    ({ idle with schedule := [.core] } : State).schedule = .core :: [] := ⟨rfl, rfl, rfl⟩

theorem witness_FetchWordStepRunsCommand : decodeTableWord 32 0x00000206 = some (.bayer 2) := by decide

/-- For each statement made with writesIdle, writesBusy or readsAs: the state it speaks of exists. -/
theorem witness_register_accesses (off : BitVec 6) (v : Word) :
    (∃ s : State, s.schedule = [.host (.write .word off v)] ∧ s.status.busy = false) ∧
    (∃ s : State, s.schedule = [.host (.write .word off v)] ∧ s.status.busy = true) ∧
    (∃ s : State, s.schedule = [.host (.read .word off)]) :=
  ⟨⟨{ idle with schedule := [.host (.write .word off v)] }, rfl, rfl⟩,
    ⟨{ busy 1 with schedule := [.host (.write .word off v)] }, rfl, rfl⟩,
    ⟨{ idle with schedule := [.host (.read .word off)] }, rfl⟩⟩

theorem witness_CommandWriteWhileIdleAccepts :
    (let s : State := { idle with schedule := [.host (.write .word 0x00 0x206), .core] }
     s.schedule = .host (.write .word 0x00 0x206) :: .core :: [] ∧ s.status.busy = false) ∧
    decode 0x206 = .ok (.bayer 2) ∧ decode 0x101 = .error .orderOnPlainCommand := ⟨⟨rfl, rfl⟩, by decide, by decide⟩

theorem witness_NarrowOrMisalignedAccessDoesNothing :
    (AccessWidth.byte ≠ .word) ∧ (AccessWidth.half ≠ .word) ∧ (0x3F : BitVec 6).toNat % 4 ≠ 0 := by decide

theorem witness_StatusLayoutAndLegalCombinations :
    idle.status.legal = true ∧ (busy 1).status.legal = true ∧ ∃ t, step (busy 1) = .next t :=
  ⟨by decide, by decide, _, rfl⟩

theorem witness_ResetInputClearsRegisters :
    ({ image with schedule := [.host .reset] } : State).schedule = .host .reset :: [] := rfl

theorem witness_FindmsbGivesHighestSetBit :
    ({ idle with opa := 0 } : State).opa = 0 ∧ ({ idle with opa := 1 } : State).opa ≠ 0 := by decide

theorem witness_DilateSpreadsLowBits : (0xFFFF : Word).toNat < 2 ^ 16 ∧ dilate 0xFFFF = dilate 0xFFFF := by
  exact ⟨by decide, rfl⟩

theorem witness_BayerCommandResult : 16 < 17 ∧ (1 ≤ 1 ∧ 1 ≤ 16) ∧ (1 ≤ 16 ∧ 16 ≤ 16) := by decide

theorem witness_BayerLaws :
    (1 ≤ 1 ∧ 1 ≤ 16 ∧ 1 < 2 ^ 1 ∧ 3 < 4 ^ 1) ∧ (1 ≤ 16 ∧ 16 ≤ 16 ∧ 65535 < 2 ^ 16 ∧ 4294967295 < 4 ^ 16) := by decide

theorem witness_QuantCommandResult :
    16 < 17 ∧ (16 ≤ 16 ∧ ({ idle with colors := 1 } : State).colors.toNat < 2) ∧
    (16 ≤ 16 ∧ 2 ≤ ({ idle with colors := 2 } : State).colors.toNat) := by decide

/-- The bounds of QuantizeIsExactRationalRule, QuantizeWidths and QuantizeExtremes at their ends. -/
theorem witness_QuantizeBounds :
    (255 ≤ 255 ∧ 4294967295 < 2 ^ 32 ∧ 16 ≤ 16 ∧ 2 ≤ 2 ∧ 2 < 2 ^ 32) ∧
    (2 ≤ 4294967295 ∧ 4294967295 < 2 ^ 32) := by decide

theorem witness_QuantizeNeverTies : 1 * (2 - 1) % 255 ≠ 0 := by decide

theorem witness_QuantizeLevelsAndMonotone : 85 * (4 - 1) % 255 = 0 ∧ 2 ≤ 4 ∧ 85 ≤ 86 ∧ 5 ≤ 6 ∧ 255 ≤ 255 := by decide

/-- Each clause of PassCheckStep, at the edge of its range: 3×5 (SHAPE), 6×6 (SIZE), 2^17 (ORDER), C = 0 and N = 1
(PARAM), one byte too far (RANGE), the same buffer (OVERLAP), and buffers that just touch (all checks pass). -/
theorem witness_PassCheckStep :
    image.todo = [] ∧ (3 : Word) ≠ 5 ∧ (¬ ∃ k < 32, (6 : Word).toNat = 2 ^ k) ∧
    ((0x20000 : Word).toNat = 2 ^ 17 ∧ 16 < 17) ∧ (image.width = image.height ∧ image.width.toNat = 2 ^ 1) ∧
    (({ image with channels := 0 } : State).channels = 0 ∧ ({ image with colors := 1 } : State).colors.toNat < 2) ∧
    passError { image with srcBase := 0x1FD } = some .range ∧ passError { image with dstBase := 0 } = some .overlap ∧
    passError { image with dstBase := 4 } = none ∧ passError { image with dstBase := 0x1FC } = none := by decide +kernel

theorem running_is_PassRunning : PassRunning running where
  busy := rfl
  pend := rfl
  checked := by decide +kernel
  order := by decide +kernel
  rising := by decide +kernel
  below := by decide +kernel

theorem witness_PassSampleStep : PassRunning running ∧ running.todo ≠ [] :=
  ⟨running_is_PassRunning, by decide +kernel⟩

theorem witness_PassAnyIndexMayBeNext : PassRunning running ∧ 0 ∈ running.todo ∧ 3 ∈ running.todo :=
  ⟨running_is_PassRunning, by decide +kernel, by decide +kernel⟩

theorem image_is_passAccepted : passAccepted image ∧ passError image = none :=
  ⟨⟨rfl, rfl, rfl, rfl⟩, by decide +kernel⟩

/-- A 1×1 PASS with a host write elsewhere between its two core steps. -/
def interleaved : State :=
  { image with width := 1, height := 1, picks := [0], schedule := [.core, .host (.memWrite 5 7), .core] }

theorem witness_PassEndState :
    passAccepted interleaved ∧ passError interleaved = none ∧ interleaved.width.toNat = 2 ^ 0 ∧
    (∀ turn ∈ interleaved.schedule.take 3, turn.harmless interleaved) ∧
    ∃ t, run 3 interleaved = .next t ∧ t.status.busy = false ∧
      ∀ m < 3, ∀ u, run m interleaved = .next u → u.status.busy = true := by
  refine ⟨⟨rfl, rfl, rfl, rfl⟩, by decide +kernel, by decide, ?_, _, rfl, by decide +kernel, ?_⟩
  · intro turn h
    have h : turn ∈ [Turn.core, .host (.memWrite 5 7), .core] := h
    simp only [List.mem_cons, List.not_mem_nil, or_false] at h
    rcases h with rfl | rfl | rfl
    · trivial
    · refine ⟨fun h => ?_, fun h => ?_⟩
      · have : 5 < 1 := h.2
        omega
      · have : 0x100 ≤ 5 := h.1
        omega
    · trivial
  · intro m hm u hu
    interval_cases m <;> cases hu <;> decide +kernel

theorem witness_CommandsEndInCountedSteps :
    ((busy 1).status.busy = true ∧ (busy 1).todo = [] ∧ (busy 1).schedule = [] ∧ (busy 1).pend ≠ passWord) ∧
    ((busy 8).pend = passWord ∧ passError (busy 8) ≠ none) ∧
    (image.status.busy = true ∧ image.todo = [] ∧ image.schedule = [] ∧ image.pend = passWord ∧
      passError image = none) := by
  refine ⟨⟨rfl, rfl, rfl, by decide⟩, ⟨rfl, by decide +kernel⟩, rfl, rfl, rfl, rfl, by decide +kernel⟩

theorem witness_PassOrderIsUnobservable :
    passAccepted image ∧ passError image = none ∧ image.schedule = [] ∧ image.mem.wf ∧
    (∃ t, run (1 + 4) { image with picks := [0, 0, 0, 0], draws := 0 } = .next t) ∧
    (∃ u, run (1 + 4) { image with picks := [3, 2, 1, 0], draws := 9 } = .next u) :=
  ⟨⟨rfl, rfl, rfl, rfl⟩, by decide +kernel, rfl, by decide +kernel, ⟨_, rfl⟩, ⟨_, rfl⟩⟩

theorem witness_FailedCommandChangesOnlyStatus :
    (busy 2).status.errcode = none ∧ ∃ t, exec .findmsb (busy 2) = .next t ∧ t.status.errcode = some .zero :=
  ⟨rfl, _, rfl, rfl⟩

theorem witness_RegisterCommandFrame : Instr.dilate ≠ .pass ∧ ∃ t, exec .dilate (busy 3) = .next t :=
  ⟨by decide, _, rfl⟩

theorem running_meets_Inv : Inv running where
  memory := by decide +kernel
  addresses := by decide +kernel
  status := by decide +kernel
  order := rfl
  orderBound := by decide +kernel
  pass := fun _ => running_is_PassRunning
  aheadPass := fun h => absurd rfl h
  aheadTodo := by decide +kernel
  aheadOnce := by decide +kernel

theorem witness_StepKeepsInvariant : Inv running ∧ ∃ t, step running = .next t := ⟨running_meets_Inv, _, rfl⟩

theorem witness_StepFromInvariantAnswers : Inv running ∧ (nextTurn running).1.inMemory running :=
  ⟨running_meets_Inv, trivial⟩

theorem witness_ResultWrittenOnlyByResultCommands :
    (busy 1).status.legal = true ∧
    ∃ t, step { busy 1 with opa := 4 } = .next t ∧ t.result ≠ ({ busy 1 with opa := 4 } : State).result :=
  ⟨by decide, _, rfl, by decide⟩

theorem witness_OrderWrittenOnlyByPassingPass :
    (∃ t, step image = .next t ∧ t.order ≠ image.order) ∧
    (Instr.bitrev ≠ .pass ∧ ∃ t, exec .bitrev (busy 4) = .next t) :=
  ⟨⟨_, rfl, by decide +kernel⟩, by decide, _, rfl⟩

theorem witness_OperandsConstantDuringCommand :
    (∃ t, step image = .next t) ∧ (nextTurn image).1 = .core ∧
    (let s : State := { image with schedule := [wr .opa 6] }
     (∃ t, step s = .next t) ∧ (nextTurn s).1 ≠ .host .reset ∧ s.status.busy = true) :=
  ⟨⟨_, rfl⟩, rfl, ⟨_, rfl⟩, by decide, rfl⟩

theorem witness_OverrunChangesOnlyAsStated :
    (let s : State := { busy 1 with schedule := [wr .dstBase 6] }
     s.status.ovr = false ∧ s.status.busy = true ∧ (0x2C : BitVec 6) ≠ 0x04 ∧ (0x2C : BitVec 6).toNat % 4 = 0 ∧
     ∃ t, step s = .next t ∧ t.status.ovr = true) ∧
    (let s : State := { idle with status := { Status.reset with ovr := true }, schedule := [wr .status 8] }
     s.status.ovr = true ∧ (8 : Word).getLsbD 3 = true ∧ ∃ t, step s = .next t ∧ t.status.ovr = false) ∧
    (let s : State := { idle with status := { Status.reset with ovr := true }, schedule := [.host .reset] }
     s.status.ovr = true ∧ ∃ t, step s = .next t ∧ t.status.ovr = false) :=
  ⟨⟨rfl, rfl, by decide, by decide, _, rfl, rfl⟩, ⟨rfl, by decide, _, rfl, rfl⟩, rfl, _, rfl, rfl⟩

theorem witness_SampleMemoryWrittenOnlyByPassAndHost :
    (∃ t, step running = .next t ∧ t.byteAt 0x102 ≠ running.byteAt 0x102) ∧
    (∃ t, step { image with schedule := [.host (.memWrite 0 1)] } = .next t ∧ t.byteAt 0 ≠ image.byteAt 0) :=
  ⟨⟨_, rfl, by decide +kernel⟩, _, rfl, by decide +kernel⟩

theorem witness_ErrorLogRecordsEveryError :
    ((busy 2).status.legal = true ∧ ∃ t, step (busy 2) = .next t ∧ t.errLog = [⟨.zero, 2⟩]) ∧
    ((busy 1).status.legal = true ∧ ∃ t, step (busy 1) = .next t ∧ t.errLog = []) :=
  ⟨⟨by decide, _, rfl, rfl⟩, by decide, _, rfl, rfl⟩

/-- A reset right after acceptance, and one just before the last sample (S = 4 core turns) with a host read of a
destination byte among the turns. -/
theorem witness_ResetDuringPassLeavesOldOrFinalBytes :
    passAccepted image ∧ passError image = none ∧ image.width.toNat = 2 ^ 1 ∧
    ([] : List Turn).count .core ≤ passSamples image ∧
    (let turns : List Turn := [.core, .host (.memRead 0x100), .core, .core, .core]
     (∀ turn ∈ turns, turn.harmless image ∧ turn.inMemory image) ∧ turns.count .core ≤ passSamples image ∧
     ({ image with schedule := turns ++ [.host .reset] } : State).schedule = turns ++ [.host .reset]) := by
  refine ⟨image_is_passAccepted.1, image_is_passAccepted.2, by decide, by decide, ?_, by decide, rfl⟩
  intro turn h
  simp only [List.mem_cons, List.not_mem_nil, or_false] at h
  rcases h with rfl | rfl | rfl | rfl | rfl
  · exact ⟨trivial, trivial⟩
  · exact ⟨trivial, show 0x100 < image.memBytes by decide⟩
  · exact ⟨trivial, trivial⟩
  · exact ⟨trivial, trivial⟩
  · exact ⟨trivial, trivial⟩

theorem witness_ResetMayFindAnySubsetProcessed :
    passAccepted image ∧ passError image = none ∧ [3, 0].Nodup ∧ (∀ idx ∈ [3, 0], idx < passSamples image) ∧
    [3, 0].length < passSamples image :=
  ⟨image_is_passAccepted.1, image_is_passAccepted.2, by decide, by decide, by decide⟩

theorem witness_HostMemoryAccess :
    (({ idle with schedule := [.host (.memRead 0x1FF)] } : State).schedule = .host (.memRead 0x1FF) :: [] ∧
      0x1FF ≤ idle.memLast.toNat ∧ idle.status.busy = false) ∧
    ({ idle with schedule := [.host (.memWrite 0x1FF 1)] } : State).schedule = .host (.memWrite 0x1FF 1) :: [] ∧
    idle.memLast.toNat < 0x200 ∧ passError running = none ∧ ¬ inSource running 0x104 ∧ ¬ inDest running 0x104 :=
  ⟨⟨rfl, by decide, rfl⟩, rfl, by decide, by decide +kernel, fun h => absurd h.2 (by decide +kernel),
    fun h => absurd h.2 (by decide +kernel)⟩

/-- Index 2 was read ahead as 128, whose output is 0; the host has since written 255 over it. A read drawn odd returns the
output of 128. Once index 2 is processed, a read returns the byte itself whatever the choice. -/
theorem test_race_uses_the_byte_read_ahead :
    (let t := after 1 { running with
       ahead := [(2, .read 128)], mem := running.mem.writeByte 2 255, picks := [1]
       schedule := [.host (.memRead 0x102)] }
     t.replies = [.byte 0] ∧ t.byteAt 0x102 = 0 ∧ t.ahead = [(2, .written)]) ∧
    (let t := after 1 { running with
       todo := [0, 1, 3], mem := running.mem.writeByte 2 255, picks := [1], schedule := [.host (.memRead 0x102)] }
     t.replies = [.byte 0xAA] ∧ t.picks = [1]) := by decide +kernel

/-- With and without a record in ahead, and for a write. -/
theorem witness_HostAccessReturnsOldOrFinalByte :
    (let s : State := { running with
       ahead := [(2, .read 128)], mem := running.mem.writeByte 2 255, picks := [1]
       schedule := [.host (.memRead 0x102)] }
     (∃ t, step s = .next t) ∧ (nextTurn s).1 = .host (.memRead 0x102) ∧ s.ahead.lookup 2 = some (.read 128)) ∧
    (let s : State := { running with schedule := [.host (.memRead 0x102)] }
     ∃ t, step s = .next t ∧ (nextTurn s).1 = .host (.memRead 0x102)) ∧
    (let s : State := { running with schedule := [.host (.memWrite 0x102 1)] }
     ∃ t, step s = .next t ∧ (nextTurn s).1 = .host (.memWrite 0x102 1)) :=
  ⟨⟨⟨_, rfl⟩, rfl, by decide⟩, ⟨_, rfl, rfl⟩, _, rfl, rfl⟩

/-- At both ends of the index and of the number of core steps before the access. -/
theorem witness_BufferRacesEndEitherWay :
    passAccepted image ∧ passError image = none ∧ 0 < passSamples image ∧ 3 < passSamples image ∧
    0 ≤ passSamples image ∧ 4 ≤ passSamples image :=
  ⟨image_is_passAccepted.1, image_is_passAccepted.2, by decide, by decide, by decide, by decide⟩

end Sys2Proof.Tests
end

section
/-! What a core step and a step can do, as case analyses said once; what the register window does, register by
register. -/

namespace Sys2Proof.Machine

/-! ## The step, turn by turn -/

/-- An empty schedule gives the core its turn (log entry 4). -/
theorem step_of_nil {s : State} (h : s.schedule = []) : step s = coreStep s := by
  rw [step, nextTurn_nil h, takeTurn]

/-- A step takes the head of the schedule. -/
theorem step_of_cons {s : State} {turn : Turn} {rest : List Turn} (h : s.schedule = turn :: rest) :
    step s = takeTurn turn { s with schedule := rest } := by
  rw [step, nextTurn_cons h]

/-- While BUSY = 1 a legal word in PEND is executed (10_state.md R39). -/
theorem coreStep_of_ok {s : State} {i : Instr} (hb : s.status.busy = true) (hd : decode s.pend = .ok i) :
    coreStep s = exec i s := by
  rw [coreStep, if_pos hb, hd]

/-- While BUSY = 1 an illegal word in PEND raises ILLEGAL (30_encoding.md R66). -/
theorem coreStep_of_error {s : State} {r : IllegalWord} (hb : s.status.busy = true)
    (hd : decode s.pend = .error r) : coreStep s = .next (raiseError .illegal s) := by
  rw [coreStep, if_pos hb, hd]

/-- PASS has one word (30_encoding.md R65). -/
theorem decode_eq_pass_iff {w : Word} : decode w = .ok .pass ↔ w = passWord := by
  constructor
  · intro h
    obtain ⟨hrsv, hord, hop⟩ := decode_ok h
    apply BitVec.eq_of_toNat_eq
    rw [word_eq_fields w, hrsv, hord, hop]
    rfl
  · rintro rfl
    exact decode_passWord

/-- Every core step that answers, from a state to the next: the idle core, the normal end of a command that writes
RESULT, the end of any command with an error, the check step of a PASS that passes, and a sample step. -/
inductive CoreMove (s : State) : State → Prop
  | idle : s.status.busy = false → CoreMove s s
  | result {i : Instr} (r : Word) : s.status.busy = true → decode s.pend = .ok i → i ≠ .pass →
      CoreMove s (finishWith r s)
  | error (e : CmdError) : s.status.busy = true → CoreMove s (raiseError e s)
  | start : s.status.busy = true → s.pend = passWord → s.todo = [] → passError s = none →
      CoreMove s (passStart s)
  | sample {idx : Nat} : s.status.busy = true → s.pend = passWord → idx ∈ s.todo →
      destAddress s idx < s.memBytes → CoreMove s (finishIfDone (storeSample idx s))

theorem coreMove_of_coreStep {s t : State} (h : coreStep s = .next t) : CoreMove s t := by
  obtain ⟨hb, rfl⟩ | ⟨hb, i, hd, hx⟩ | ⟨hb, -, rfl⟩ := coreStep_next h
  · exact .idle hb
  · obtain ⟨hi, r, rfl⟩ | ⟨e, rfl⟩ | ⟨rfl, ht, hc, rfl⟩ | ⟨rfl, idx, hmem, -, -, hdst, rfl⟩ := exec_next hx
    · exact .result r hb hd hi
    · exact .error e hb
    · exact .start hb (decode_eq_pass_iff.1 hd) ht hc
    · exact .sample hb (decode_eq_pass_iff.1 hd) hmem hdst
  · exact .error .illegal hb

/-! ## STATUS -/

/-- A write of v to STATUS clears OVR where bit 3 of v is 1, and changes nothing else (10_state.md R37). -/
theorem Status.hostWrite_eq (st : Status) (v : Word) :
    st.hostWrite v = { st with ovr := st.ovr && !v.getLsbD 3 } := by
  unfold Status.hostWrite
  split
  · next h => rw [h]; simp
  · next h => rw [Bool.eq_false_of_not_eq_true h]; simp

/-- STATUS after a host write to a register (R35 to R37). -/
theorem writeReg_status (r : Reg) (v : Word) (s : State) :
    (writeReg r v s).status =
      if r = .status then s.status.hostWrite v
      else if s.status.busy then s.status.overrun
      else if r = .cmd then s.status.accepted else s.status := by
  unfold writeReg
  split
  · rfl
  · split
    · rfl
    · cases r <;> rfl

/-- Every way a step can change STATUS, from its value before and the turn taken to its value after. -/
inductive StatusMove (st : Status) : Turn → Status → Prop
  | kept (turn : Turn) : StatusMove st turn st
  | finished : st.busy = true → StatusMove st .core st.finished
  | raised (e : CmdError) : st.busy = true → StatusMove st .core (st.raised e)
  | cleared {off : BitVec 6} (v : Word) : regAt off = some .status →
      StatusMove st (.host (.write .word off v)) (st.hostWrite v)
  | overrun {off : BitVec 6} {r : Reg} (v : Word) : regAt off = some r → r ≠ .status → st.busy = true →
      StatusMove st (.host (.write .word off v)) st.overrun
  | accepted {off : BitVec 6} (v : Word) : regAt off = some .cmd → st.busy = false →
      StatusMove st (.host (.write .word off v)) st.accepted
  | reset : StatusMove st (.host .reset) Status.reset

theorem CoreMove.statusMove {s t : State} (h : CoreMove s t) : StatusMove s.status .core t.status := by
  cases h with
  | idle => exact .kept _
  | result r hb => exact .finished hb
  | error e hb => exact .raised e hb
  | start => exact .kept _
  | @sample idx hb =>
    rw [finishIfDone_status]
    split
    · exact .finished hb
    · exact .kept _

/-- Only a 32-bit access reaches a register (20_memory.md R47). -/
theorem accessedReg_eq_some {w : AccessWidth} {off : BitVec 6} {r : Reg} (h : accessedReg w off = some r) :
    w = .word ∧ regAt off = some r := by
  cases w with
  | word => exact ⟨rfl, h⟩
  | half => cases h
  | byte => cases h

theorem busWrite_statusMove (w : AccessWidth) (off : BitVec 6) (v : Word) (s : State) :
    StatusMove s.status (.host (.write w off v)) (busWrite w off v s).status := by
  obtain e | ⟨r, hr, e⟩ := busWrite_cases w off v s
  · rw [e]
    exact .kept _
  · obtain ⟨rfl, hr⟩ := accessedReg_eq_some hr
    rw [e, writeReg_status]
    split
    · next h => exact .cleared v (h ▸ hr)
    · next h =>
      split
      · next hb => exact .overrun v hr h hb
      · next hb =>
        split
        · next hc => exact .accepted v (hc ▸ hr) (by simpa using hb)
        · exact .kept _

/-- A host access to sample memory changes neither a register nor STATUS (20_memory.md R48). -/
@[simp] theorem hostLoad_status (a : Nat) (s : State) : (hostLoad a s).status = s.status := by
  obtain ⟨m, ah, p, d, b, h⟩ := hostLoad_frame a s
  rw [h]

@[simp] theorem hostStore_status (a : Nat) (v : Byte) (s : State) : (hostStore a v s).status = s.status := by
  obtain ⟨m, ah, p, d, h⟩ := hostStore_frame a v s
  rw [h]

theorem hostStep_statusMove {a : HostAction} {s t : State} (h : hostStep a s = .next t) :
    StatusMove s.status (.host a) t.status := by
  obtain ⟨w, off, rfl, rfl⟩ | ⟨w, off, v, rfl, rfl⟩ | ⟨addr, rfl, -, rfl⟩ | ⟨addr, v, rfl, -, rfl⟩ | ⟨rfl, rfl⟩ :=
    hostStep_next h
  · exact .kept _
  · exact busWrite_statusMove w off v s
  · rw [hostLoad_status]
    exact .kept _
  · rw [hostStore_status]
    exact .kept _
  · exact .reset

theorem step_statusMove {s t : State} (h : step s = .next t) : StatusMove s.status (nextTurn s).1 t.status := by
  rw [← nextTurn_status s]
  obtain ⟨ht, h⟩ | ⟨a, ht, h⟩ := step_next h
  · rw [ht]
    exact (coreMove_of_coreStep h).statusMove
  · rw [ht]
    exact hostStep_statusMove h

/-- The legal combinations of R16 are kept by every change of STATUS. -/
theorem StatusMove.legal {st su : Status} {turn : Turn} (h : StatusMove st turn su) (hl : st.legal = true) :
    su.legal = true := by
  cases h with
  | kept => exact hl
  | finished hb => exact Status.legal_finished hl hb
  | raised e => exact Status.legal_raised st e
  | cleared v => exact Status.legal_congr hl (by simp) (by simp) (by simp) (by simp)
  | overrun v => exact Status.legal_congr hl rfl rfl rfl rfl
  | accepted v => exact Status.legal_accepted st
  | reset => rfl

/-! ## The register window -/

/-- Each register is found at its offset (R14). -/
@[simp] theorem regAt_offset (r : Reg) : regAt r.offset = some r := by
  cases r <;> rfl

/-- A register is found at its offset only. -/
theorem offset_of_regAt {off : BitVec 6} {r : Reg} (h : regAt off = some r) : off = r.offset := by
  revert off
  cases r <;> decide

/-- What a read returns does not depend on the turns to come. -/
@[simp] theorem busRead_schedule (w : AccessWidth) (off : BitVec 6) (s : State) (l : List Turn) :
    busRead w off { s with schedule := l } = busRead w off s := by
  unfold busRead
  split
  · rfl
  · next r _ => cases r <;> rfl

theorem busRead_of_regAt {off : BitVec 6} {r : Reg} (h : regAt off = some r) (s : State) :
    busRead .word off s = readReg r s := by
  simp [busRead, accessedReg, h]

theorem busRead_of_no_reg {off : BitVec 6} (h : regAt off = none) (s : State) : busRead .word off s = 0 := by
  simp [busRead, accessedReg, h]

theorem readsAs_busRead (off : BitVec 6) : readsAs off (busRead .word off) := by
  intro s rest h
  rw [step_of_cons h, takeTurn, hostStep, busRead_schedule]
  rfl

theorem readsAs_reg (r : Reg) : readsAs r.offset (readReg r) := by
  have h : busRead .word r.offset = readReg r := funext (busRead_of_regAt (regAt_offset r))
  exact h ▸ readsAs_busRead r.offset

theorem writesIdle_reg {r : Reg} (hr : r ≠ .status) : writesIdle r.offset (writeIdle r) := by
  intro s v rest h hb
  rw [step_of_cons h, takeTurn, hostStep]
  simp [busWrite, accessedReg, writeReg, hr, hb]

theorem writesBusy_reg {r : Reg} (hr : r ≠ .status) :
    writesBusy r.offset (fun _ s => { s with status := { s.status with ovr := true } }) := by
  intro s v rest h hb
  rw [step_of_cons h, takeTurn, hostStep]
  simp [busWrite, accessedReg, writeReg, hr, hb, Status.overrun]

/-- A write of v to STATUS, whatever BUSY is (R37). -/
theorem hostStep_write_status (v : Word) (s : State) :
    hostStep (.write .word 0x04 v) s =
      .next { s with status := { s.status with ovr := s.status.ovr && !v.getLsbD 3 } } := by
  rw [← Status.hostWrite_eq]
  rfl

theorem writesIdle_status :
    writesIdle 0x04 (fun v s => { s with status := { s.status with ovr := s.status.ovr && !v.getLsbD 3 } }) := by
  intro s v rest h _
  rw [step_of_cons h, takeTurn, hostStep_write_status]

theorem writesBusy_status :
    writesBusy 0x04 (fun v s => { s with status := { s.status with ovr := s.status.ovr && !v.getLsbD 3 } }) := by
  intro s v rest h _
  rw [step_of_cons h, takeTurn, hostStep_write_status]

/-- The four offsets that hold no register (R32). -/
theorem regAt_reserved : ∀ off ∈ ([0x30, 0x34, 0x38, 0x3C] : List (BitVec 6)), regAt off = none := by
  decide

theorem readsAs_zero {off : BitVec 6} (h : regAt off = none) : readsAs off (fun _ => 0) := by
  have h0 : busRead .word off = fun _ => 0 := funext (busRead_of_no_reg h)
  exact h0 ▸ readsAs_busRead off

/-- A write where no register is does nothing, BUSY or not (R32). -/
theorem step_write_no_reg {off : BitVec 6} (h : regAt off = none) {s : State} {v : Word} {rest : List Turn}
    (hs : s.schedule = .host (.write .word off v) :: rest) : step s = .next { s with schedule := rest } := by
  rw [step_of_cons hs, takeTurn, hostStep]
  simp [busWrite, accessedReg, h]

end Sys2Proof.Machine
end

section
/-! The invariant of BDC: how each operation of the model keeps it. -/

namespace Sys2Proof.Machine

/-! ## Sample memory within its bounds -/

/-- Memory in canonical form with every address below n (20_memory.md R42, R43). -/
structure Memory.Fits (m : Memory) (n : Nat) : Prop where
  wf : m.wf
  below : ∀ c ∈ m, c.1 < n

theorem Memory.Fits.writeByte {m : Memory} {n a : Nat} (h : m.Fits n) (ha : a < n) (v : Byte) :
    (m.writeByte a v).Fits n where
  wf := Memory.writeByte_wf h.wf a v
  below := fun c hc => by
    obtain rfl | hc := Memory.mem_writeByte hc
    · exact ha
    · exact h.below c hc

/-- Memory after a sample step (43_pass.md R98). -/
theorem Memory.Fits.sampled {s : State} {n idx : Nat} (h : s.mem.Fits n) (ha : destAddress s idx < n) :
    (sampledMemory s idx).Fits n := by
  unfold sampledMemory
  split
  · exact h
  · exact h.writeByte ha _
  · exact h.writeByte ha _

theorem Inv.fits {s : State} (h : Inv s) : s.mem.Fits s.memBytes := ⟨h.memory, h.addresses⟩

/-! ## While no PASS runs -/

/-- TODO is empty while the core is idle (10_state.md R34). -/
theorem Inv.todo_of_idle {s : State} (h : Inv s) (hb : s.status.busy = false) : s.todo = [] := by
  by_contra hne
  exact absurd (h.pass hne).busy (by simp [hb])

theorem Inv.ahead_of_idle {s : State} (h : Inv s) (hb : s.status.busy = false) : s.ahead = [] := by
  by_contra hne
  exact absurd (State.passRuns_iff.1 (h.aheadPass hne)).1 (by simp [hb])

/-- Where no PASS has samples or races left, the invariant is what it says of memory, STATUS and the order. -/
theorem Inv.of_no_pass {s : State} (hm : s.mem.Fits s.memBytes) (hs : s.status.legal = true)
    (ho : s.kReg = s.order) (hk : s.order.toNat ≤ Config.maxOrder) (ht : s.todo = []) (ha : s.ahead = []) :
    Inv s where
  memory := hm.wf
  addresses := hm.below
  status := hs
  order := ho
  orderBound := hk
  pass := fun hne => absurd ht hne
  aheadPass := fun hne => absurd ha hne
  aheadTodo := by simp [ha]
  aheadOnce := by simp [ha]

theorem inv_reset : Inv State.reset :=
  .of_no_pass ⟨Memory.reset_wf, by simp [State.reset]⟩ rfl rfl (by decide) rfl rfl

protected theorem Inv.assertReset {s : State} (h : Inv s) : Inv (assertReset s) :=
  .of_no_pass h.fits rfl rfl (by simp) rfl rfl

protected theorem Inv.finishWith {s : State} (h : Inv s) (hb : s.status.busy = true) (r : Word) :
    Inv (finishWith r s) :=
  .of_no_pass h.fits (Status.legal_finished h.status hb) h.order h.orderBound rfl rfl

protected theorem Inv.raiseError {s : State} (h : Inv s) (e : CmdError) : Inv (raiseError e s) :=
  .of_no_pass h.fits rfl h.order h.orderBound rfl rfl

theorem Inv.writeReg_idle {s : State} (h : Inv s) (hb : s.status.busy = false) (r : Reg) (v : Word) :
    Inv (writeReg r v s) := by
  refine .of_no_pass ?_ ?_ ?_ ?_ ?_ ?_
  · simpa [State.memBytes] using h.fits
  · rw [writeReg_status, hb]
    split
    · exact Status.legal_congr h.status (by simp) (by simp) (by simp) (by simp)
    · split
      · contradiction
      · split
        · rfl
        · exact h.status
  · simpa using h.order
  · simpa using h.orderBound
  · simpa using h.todo_of_idle hb
  · simpa using h.ahead_of_idle hb

/-! ## Updates that a running PASS does not see -/

/-- What the invariant does not depend on: the turns and choices to come, the replies, a legal STATUS with the same
BUSY, and the bytes of sample memory. -/
theorem Inv.update {s : State} (h : Inv s) {m : Memory} {st : Status} (hm : m.Fits s.memBytes)
    (hs : st.legal = true) (hb : st.busy = s.status.busy) (l : List Turn) (p : List Nat) (d : Nat)
    (rs : List Reply) :
    Inv { s with mem := m, status := st, schedule := l, picks := p, draws := d, replies := rs } :=
  { h with
    memory := hm.wf
    addresses := hm.below
    status := hs
    pass := fun hne => { h.pass hne with busy := hb.trans (h.pass hne).busy }
    aheadPass := fun hne =>
      let ⟨hbusy, hp, hc⟩ := State.passRuns_iff.1 (h.aheadPass hne)
      State.passRuns_iff.2 ⟨hb.trans hbusy, hp, hc⟩ }

protected theorem Inv.schedule {s : State} (h : Inv s) (l : List Turn) : Inv { s with schedule := l } :=
  h.update h.fits h.status rfl l s.picks s.draws s.replies

protected theorem Inv.nextTurn {s : State} (h : Inv s) : Inv (nextTurn s).2 := by
  unfold nextTurn
  split
  · exact h
  · exact h.schedule _

protected theorem Inv.reply {s : State} (h : Inv s) (r : Reply) : Inv (s.reply r) :=
  h.update h.fits h.status rfl s.schedule s.picks s.draws _

protected theorem Inv.usePick {s : State} (h : Inv s) : Inv s.usePick :=
  h.update h.fits h.status rfl s.schedule _ _ s.replies

protected theorem Inv.storeByte {s : State} (h : Inv s) {a : Nat} (ha : a < s.memBytes) (v : Byte) :
    Inv (s.storeByte a v) :=
  h.update (h.fits.writeByte ha v) h.status rfl s.schedule s.picks s.draws s.replies

protected theorem Inv.busWrite {s : State} (h : Inv s) (w : AccessWidth) (off : BitVec 6) (v : Word) :
    Inv (busWrite w off v s) := by
  cases hb : s.status.busy with
  | false =>
    obtain e | ⟨r, -, e⟩ := busWrite_cases w off v s <;> rw [e]
    · exact h
    · exact h.writeReg_idle hb r v
  | true =>
    obtain ⟨st, e, h1, h2, h3, h4⟩ := busWrite_busy hb w off v
    rw [e]
    exact h.update h.fits (Status.legal_congr h.status h1 h2 h3 h4) h1 s.schedule s.picks s.draws s.replies

/-! ## The races with a running PASS -/

/-- Both bytes of an unprocessed index of a running PASS are in sample memory (20_memory.md R45). -/
theorem addresses_of_unprocessed {s : State} {idx : Nat} (hc : passError s = none) (hi : idx < passSamples s) :
    sourceAddress s idx < s.memBytes ∧ destAddress s idx < s.memBytes := by
  obtain ⟨-, -, -, -, -, hsrc, hdst, -⟩ := passError_none hc
  unfold sourceAddress destAddress
  omega

/-- A record for an index that has none keeps the invariant, while a PASS has the index still to process. -/
theorem Inv.recordAhead {s : State} (h : Inv s) {idx : Nat} (hr : s.passRuns = true)
    (hu : s.unprocessed idx = true) (x : Ahead) {l : List (Nat × Ahead)} (hl : l.Sublist s.ahead)
    (hnew : ∀ e ∈ l, idx ≠ e.1) : Inv { s with ahead := (idx, x) :: l } :=
  { h with
    pass := fun hne => { h.pass hne with }
    aheadPass := fun _ => hr
    aheadTodo := fun e he => by
      obtain rfl | he := List.mem_cons.1 he
      · exact hu
      · exact h.aheadTodo e (hl.subset he)
    aheadOnce := List.pairwise_cons.2 ⟨hnew, h.aheadOnce.sublist hl⟩ }

/-- The core reads a source byte ahead of its sample step (20_memory.md R54). -/
protected theorem Inv.readAhead {s : State} (h : Inv s) {idx : Nat} (hr : s.passRuns = true)
    (hu : s.unprocessed idx = true) (hl : s.ahead.lookup idx = none) : Inv (readAhead idx s) :=
  h.recordAhead hr hu _ (List.Sublist.refl _) fun e he => by simpa using List.lookup_eq_none_iff.1 hl e he

/-- The core writes a destination byte ahead of its sample step (R54). -/
protected theorem Inv.writeAhead {s : State} (h : Inv s) {idx : Nat} (hr : s.passRuns = true)
    (hu : s.unprocessed idx = true) : Inv (writeAhead idx s) := by
  have hdst := (addresses_of_unprocessed (State.passRuns_iff.1 hr).2.2 (State.unprocessed_iff.1 hu).1).2
  have hstored : Inv (s.storeByte (destAddress s idx) (aheadOutput s idx)) := h.storeByte hdst _
  exact hstored.recordAhead hr hu .written List.filter_sublist fun e he heq => by
    simp [heq] at he

protected theorem Inv.raceOnDest {s : State} (h : Inv s) (a : Nat) : Inv (raceOnDest a s) := by
  obtain ⟨-, e⟩ | ⟨idx, hd, ⟨-, e⟩ | ⟨-, e⟩⟩ := raceOnDest_cases a s <;> rw [e]
  · exact h
  · obtain ⟨hr, -, hu, -⟩ := destRace_eq_some.1 hd
    exact h.usePick.writeAhead hr hu
  · exact h.usePick

protected theorem Inv.raceOnWrite {s : State} (h : Inv s) (a : Nat) : Inv (raceOnWrite a s) := by
  obtain ⟨-, e⟩ | ⟨idx, hd, ⟨-, e⟩ | ⟨-, e⟩⟩ := raceOnWrite_cases a s <;> rw [e]
  · exact h.raceOnDest a
  · obtain ⟨hr, -, hu, hl⟩ := sourceRace_eq_some.1 hd
    exact h.usePick.readAhead hr hu hl
  · exact h.usePick

protected theorem Inv.hostLoad {s : State} (h : Inv s) (a : Nat) : Inv (hostLoad a s) :=
  (h.raceOnDest a).reply _

protected theorem Inv.hostStore {s : State} (h : Inv s) {a : Nat} (ha : a < s.memBytes) (v : Byte) :
    Inv (hostStore a v s) := by
  refine (h.raceOnWrite a).storeByte ?_ v
  obtain ⟨m, ah, p, d, e⟩ := raceOnWrite_frame a s
  rw [e]
  exact ha

/-! ## PASS -/

/-- The check step of a PASS that passes leaves a running PASS (43_pass.md R97). -/
theorem passRunning_passStart {s : State} (hb : s.status.busy = true) (hp : s.pend = passWord)
    (hc : passError s = none) : PassRunning (passStart s) where
  busy := hb
  pend := hp
  checked := hc
  order := by
    obtain ⟨-, -, hk, -⟩ := passError_none hc
    rw [passStart_order, passStart_width, BitVec.toNat_ofNat]
    omega
  rising := List.pairwise_lt_range
  below := fun _ hi => List.mem_range.1 hi

protected theorem PassRunning.passRuns {s : State} (h : PassRunning s) : s.passRuns = true :=
  State.passRuns_iff.2 ⟨h.busy, h.pend, h.checked⟩

/-- A sample step that is not the last leaves the PASS running (R98). -/
protected theorem PassRunning.storeSample {s : State} (h : PassRunning s) (idx : Nat) :
    PassRunning (storeSample idx s) :=
  { h with
    rising := h.rising.filter _
    below := fun i hi => h.below i (List.mem_filter.1 hi).1 }

protected theorem Inv.passStart {s : State} (h : Inv s) (hb : s.status.busy = true) (hp : s.pend = passWord)
    (hc : passError s = none) : Inv (passStart s) where
  memory := h.memory
  addresses := h.addresses
  status := h.status
  order := rfl
  orderBound := by
    obtain ⟨-, -, hk, -⟩ := passError_none hc
    rw [passStart_order, BitVec.toNat_ofNat]
    exact (Nat.mod_le _ _).trans hk
  pass := fun _ => passRunning_passStart hb hp hc
  aheadPass := h.aheadPass
  aheadTodo := fun e he => by
    have hi : e.1 < passSamples s := (State.unprocessed_iff.1 (h.aheadTodo e he)).1
    exact State.unprocessed_iff.2 ⟨hi, .inr (List.mem_range.2 hi)⟩
  aheadOnce := h.aheadOnce

/-- A sample step that is not the last keeps the invariant; the records left are those of the indices left. -/
protected theorem Inv.storeSample {s : State} (h : Inv s) {idx : Nat} (hi : idx ∈ s.todo)
    (hdst : destAddress s idx < s.memBytes) : Inv (storeSample idx s) where
  memory := (h.fits.sampled hdst).wf
  addresses := (h.fits.sampled hdst).below
  status := h.status
  order := h.order
  orderBound := h.orderBound
  pass := fun _ => (h.pass (List.ne_nil_of_mem hi)).storeSample idx
  aheadPass := fun _ => (h.pass (List.ne_nil_of_mem hi)).passRuns
  aheadTodo := fun e he => by
    obtain ⟨he, hne⟩ := List.mem_filter.1 he
    obtain ⟨hlt, ht | ht⟩ := State.unprocessed_iff.1 (h.aheadTodo e he)
    · exact absurd ht (List.ne_nil_of_mem hi)
    · exact State.unprocessed_iff.2 ⟨hlt, .inr (List.mem_filter.2 ⟨ht, hne⟩)⟩
  aheadOnce := h.aheadOnce.filter _

protected theorem Inv.finishIfDone {s : State} (h : Inv s) (hb : s.status.busy = true) : Inv (finishIfDone s) := by
  obtain ⟨-, e⟩ | ⟨-, e⟩ := finishIfDone_cases s <;> rw [e]
  · exact h.finishWith hb s.result
  · exact h

/-! ## The step -/

theorem Inv.coreMove {s t : State} (h : Inv s) (hm : CoreMove s t) : Inv t := by
  cases hm with
  | idle => exact h
  | result r hb => exact h.finishWith hb r
  | error e => exact h.raiseError e
  | start hb hp _ hc => exact h.passStart hb hp hc
  | sample hb _ hi hdst => exact (h.storeSample hi hdst).finishIfDone hb

protected theorem Inv.hostStep {s t : State} {a : HostAction} (h : Inv s) (hs : hostStep a s = .next t) : Inv t := by
  obtain ⟨w, off, -, rfl⟩ | ⟨w, off, v, -, rfl⟩ | ⟨addr, -, -, rfl⟩ | ⟨addr, v, -, ha, rfl⟩ | ⟨-, rfl⟩ :=
    hostStep_next hs
  · exact h.reply _
  · exact h.busWrite w off v
  · exact h.hostLoad addr
  · exact h.hostStore ha v
  · exact h.assertReset

/-- Settles O46: each kind of core step and each host action keeps the invariant. -/
theorem stepKeepsInvariant : Obligations.StepKeepsInvariant := by
  unfold Obligations.StepKeepsInvariant
  intro s t h hs
  obtain ⟨-, hc⟩ | ⟨a, -, ha⟩ := step_next hs
  · exact h.nextTurn.coreMove (coreMove_of_coreStep hc)
  · exact h.nextTurn.hostStep ha

/-- Settles O45: after reset no PASS runs, and memory is empty. -/
theorem resetStateMeetsInvariant : Obligations.ResetStateMeetsInvariant := inv_reset

end Sys2Proof.Machine
end

section
/-! The number of core steps a command takes while only the core moves (spec 70_reset_and_hazards.md R140). -/

namespace Sys2Proof.Machine

/-- A busy core ends every command that is not PASS, and a PASS that fails a check, in one step. -/
theorem coreStep_ends {s : State} (hb : s.status.busy = true) (ht : s.todo = [])
    (h : s.pend ≠ passWord ∨ passError s ≠ none) : ∃ t, coreStep s = .next t ∧ t.status.busy = false := by
  cases hd : decode s.pend with
  | error r => exact ⟨_, coreStep_of_error hb hd, rfl⟩
  | ok i =>
    rw [coreStep_of_ok hb hd]
    by_cases hi : i = .pass
    · subst hi
      have herr : passError s ≠ none := h.resolve_left (by simp [decode_eq_pass_iff.1 hd])
      obtain ⟨e, -, he⟩ | ⟨hn, -⟩ := passCheck_cases s
      · refine ⟨raiseError e s, ?_, rfl⟩
        rw [exec, execPass, State.chosenIndex_eq_none.2 ht, he]
      · exact absurd hn herr
    · obtain ⟨t, hx⟩ := exec_ne_pass_next hi s
      obtain ⟨-, r, rfl⟩ | ⟨e, rfl⟩ | ⟨rfl, -⟩ | ⟨rfl, -⟩ := exec_next hx
      · exact ⟨_, hx, rfl⟩
      · exact ⟨_, hx, rfl⟩
      · exact absurd rfl hi
      · exact absurd rfl hi

/-- The check step of a PASS that passes. -/
theorem coreStep_passStart {s : State} (hb : s.status.busy = true) (hp : s.pend = passWord) (ht : s.todo = [])
    (hc : passError s = none) : coreStep s = .next (passStart s) := by
  rw [coreStep_of_ok hb (decode_eq_pass_iff.2 hp), exec, execPass, State.chosenIndex_eq_none.2 ht, passCheck, hc]

/-- A running PASS with samples left processes one of them. -/
protected theorem PassRunning.coreStep {s : State} (h : PassRunning s) (hne : s.todo ≠ []) :
    ∃ idx ∈ s.todo, coreStep s = .next (finishIfDone (storeSample idx s)) := by
  cases hi : s.chosenIndex with
  | none => exact absurd (State.chosenIndex_eq_none.1 hi) hne
  | some idx =>
    have hmem := State.chosenIndex_mem hi
    obtain ⟨hsrc, hdst⟩ := addresses_of_unprocessed h.checked (h.below idx hmem)
    refine ⟨idx, hmem, ?_⟩
    rw [coreStep_of_ok h.busy (decode_eq_pass_iff.2 h.pend), exec, execPass, hi]
    exact sampleStep_eq hsrc hdst

/-- A sample step takes one index out of TODO. -/
theorem PassRunning.length_todo_storeSample {s : State} (h : PassRunning s) {idx : Nat} (hi : idx ∈ s.todo) :
    (storeSample idx s).todo.length + 1 = s.todo.length := by
  have hnd : s.todo.Nodup := h.rising.imp Nat.ne_of_lt
  have hpos := List.length_pos_of_mem hi
  rw [storeSample_todo, ← hnd.erase_eq_filter, List.length_erase_of_mem hi]
  omega

/-- While only the core moves, a PASS with n > 0 samples left is busy for the next n - 1 steps and ends in the n-th. -/
theorem PassRunning.run_todo {s : State} {n : Nat} (h : PassRunning s) (hs : s.schedule = [])
    (hn : s.todo.length = n + 1) :
    (∀ m ≤ n, ∃ u, run m s = .next u ∧ u.status.busy = true) ∧
      ∃ t, run (n + 1) s = .next t ∧ t.status.busy = false ∧ t.status.done = true := by
  induction n generalizing s with
  | zero =>
    obtain ⟨idx, hi, hstep⟩ := h.coreStep (by rintro h0; simp [h0] at hn)
    have hlen := h.length_todo_storeSample hi
    have hnil : (storeSample idx s).todo = [] := List.length_eq_zero_iff.1 (by omega)
    refine ⟨fun m hm => ?_, _, (run_one s).trans ((step_of_nil hs).trans hstep), ?_⟩
    · obtain rfl : m = 0 := by omega
      exact ⟨s, rfl, h.busy⟩
    · rw [finishIfDone_status, if_pos hnil]
      exact ⟨rfl, rfl⟩
  | succ n ih =>
    obtain ⟨idx, hi, hstep⟩ := h.coreStep (by rintro h0; simp [h0] at hn)
    have hlen := h.length_todo_storeSample hi
    have hgo : finishIfDone (storeSample idx s) = storeSample idx s := by
      obtain ⟨h0, -⟩ | ⟨-, e⟩ := finishIfDone_cases (storeSample idx s)
      · rw [h0] at hlen
        simp at hlen
        omega
      · exact e
    rw [hgo] at hstep
    have hstep := (step_of_nil hs).trans hstep
    obtain ⟨hbusy, hend⟩ := ih (h.storeSample idx) hs (by omega)
    refine ⟨fun m hm => ?_, by rwa [run_succ_of_next hstep]⟩
    cases m with
    | zero => exact ⟨s, rfl, h.busy⟩
    | succ m => rw [run_succ_of_next hstep]; exact hbusy m (by omega)

/-- A PASS that passes its checks has at least one sample. -/
theorem passSamples_pos {s : State} (hc : passError s = none) : 0 < passSamples s := by
  obtain ⟨hwh, hpow, -, hch, -⟩ := passError_none hc
  obtain ⟨k, -, hk⟩ := isPow2_iff.1 hpow
  have hw : 0 < s.width.toNat := hk ▸ Nat.two_pow_pos k
  have hc0 : 0 < s.channels.toNat :=
    Nat.pos_of_ne_zero fun h0 => hch (BitVec.eq_of_toNat_eq h0)
  exact Nat.mul_pos (Nat.mul_pos hw (hwh ▸ hw)) hc0

/-- Settles O41: by induction on the number of samples left after the check step. -/
theorem commandsEndInCountedSteps : Obligations.CommandsEndInCountedSteps := by
  unfold Obligations.CommandsEndInCountedSteps
  intro s hb ht hs
  refine ⟨fun h => ?_, fun hp hc => ?_⟩
  · rw [run_one, step_of_nil hs]
    exact coreStep_ends hb ht h
  · have hstart : step s = .next (passStart s) := (step_of_nil hs).trans (coreStep_passStart hb hp ht hc)
    obtain ⟨n, hn⟩ := Nat.exists_eq_add_one.2 (passSamples_pos hc)
    obtain ⟨hbusy, hend⟩ := (passRunning_passStart hb hp hc).run_todo (n := n) hs (by simp [hn])
    rw [hn, Nat.add_comm 1]
    refine ⟨fun m hm => ?_, by rwa [run_succ_of_next hstart]⟩
    cases m with
    | zero => exact ⟨s, rfl, hb⟩
    | succ m => rw [run_succ_of_next hstart]; exact hbusy m (by omega)

end Sys2Proof.Machine
end

section
/-! STATUS, RESULT, ORDER, the operand registers and OVR: what changes them (spec 10_state.md R16 to R36). -/

namespace Sys2Proof.Machine

/-! ## The word of STATUS -/

/-- STATUS bit by bit (10_state.md R16). -/
theorem Status.getLsbD_word (st : Status) {n : Nat} (hn : n < 32) :
    st.word.getLsbD n =
      if n = 0 then st.busy else if n = 1 then st.done else if n = 2 then st.err else if n = 3 then st.ovr
      else st.errcodeBits.getLsbD (n - 4) := by
  simp only [Status.word, BitVec.getLsbD_setWidth, BitVec.getLsbD_append, hn]
  match n with
  | 0 => simp
  | 1 => simp
  | 2 => simp
  | 3 => simp
  | n + 4 => simp

theorem Status.extractLsb'_word (st : Status) : st.word.extractLsb' 4 4 = st.errcodeBits := by
  apply BitVec.eq_of_getLsbD_eq
  intro n hn
  have h32 : n + 4 < 32 := by omega
  rw [BitVec.getLsbD_extractLsb', Nat.add_comm 4 n, st.getLsbD_word h32]
  simp [hn]

/-- STATUS[31:8] reads 0 (R16). -/
theorem Status.word_lt (st : Status) : st.word.toNat < 2 ^ 8 := by
  unfold Status.word
  rw [BitVec.toNat_setWidth]
  exact (Nat.mod_le _ _).trans_lt (BitVec.isLt _)

/-- ERRCODE reads 0 exactly when there is no error (60_exceptions.md R106). -/
theorem Status.errcodeBits_ne_zero (st : Status) : st.errcodeBits ≠ 0 ↔ st.errcode.isSome = true := by
  unfold Status.errcodeBits
  cases st.errcode with
  | none => simp
  | some e => cases e <;> decide

theorem Status.legal_iff (st : Status) : st.legal = true ↔
    ((st.busy, st.done, st.err) = (false, false, false) ∨ (st.busy, st.done, st.err) = (true, false, false) ∨
      (st.busy, st.done, st.err) = (false, true, false) ∨ (st.busy, st.done, st.err) = (false, false, true)) ∧
    (st.errcodeBits ≠ 0 ↔ st.err = true) := by
  rw [st.errcodeBits_ne_zero]
  obtain ⟨b, d, e, o, c⟩ := st
  cases b <;> cases d <;> cases e <;> cases c <;> simp [Status.legal]

/-- Settles O16: `StatusMove` says how a step can change STATUS, and each way keeps it legal. -/
theorem statusLayoutAndLegalCombinations : Obligations.StatusLayoutAndLegalCombinations := by
  unfold Obligations.StatusLayoutAndLegalCombinations
  refine ⟨fun st => ⟨?_, ?_, ?_, ?_, st.extractLsb'_word, st.word_lt⟩, by decide, Status.legal_iff, rfl,
    fun s t hl h => (step_statusMove h).legal hl, fun s v => hostStep_write_status v s⟩
  · exact st.getLsbD_word (n := 0) (by decide)
  · exact st.getLsbD_word (n := 1) (by decide)
  · exact st.getLsbD_word (n := 2) (by decide)
  · exact st.getLsbD_word (n := 3) (by decide)

/-- Settles O17: the codes are those of R106, and `raiseError` writes the one it is given. -/
theorem errorCodesAreNumbered : Obligations.ErrorCodesAreNumbered := by
  unfold Obligations.ErrorCodesAreNumbered
  refine ⟨rfl, fun st h => ?_, fun s e => rfl⟩
  rw [Status.errcodeBits, h]

/-! ## RESULT, ORDER and the registers a command reads -/

@[simp] theorem hostLoad_result (a : Nat) (s : State) : (hostLoad a s).result = s.result := by
  obtain ⟨m, ah, p, d, b, h⟩ := hostLoad_frame a s
  rw [h]

@[simp] theorem hostStore_result (a : Nat) (v : Byte) (s : State) : (hostStore a v s).result = s.result := by
  obtain ⟨m, ah, p, d, h⟩ := hostStore_frame a v s
  rw [h]

@[simp] theorem hostLoad_order (a : Nat) (s : State) : (hostLoad a s).order = s.order := by
  obtain ⟨m, ah, p, d, b, h⟩ := hostLoad_frame a s
  rw [h]

@[simp] theorem hostStore_order (a : Nat) (v : Byte) (s : State) : (hostStore a v s).order = s.order := by
  obtain ⟨m, ah, p, d, h⟩ := hostStore_frame a v s
  rw [h]

/-- No host action but reset changes RESULT or ORDER: both are read-only to the host (10_state.md R37). -/
theorem hostStep_readOnly {a : HostAction} {s t : State} (h : hostStep a s = .next t) (ha : a ≠ .reset) :
    t.result = s.result ∧ t.order = s.order := by
  obtain ⟨w, off, -, rfl⟩ | ⟨w, off, v, -, rfl⟩ | ⟨addr, -, -, rfl⟩ | ⟨addr, v, -, -, rfl⟩ | ⟨rfl, -⟩ :=
    hostStep_next h
  · exact ⟨rfl, rfl⟩
  · exact ⟨busWrite_result w off v s, busWrite_order w off v s⟩
  · exact ⟨hostLoad_result addr s, hostLoad_order addr s⟩
  · exact ⟨hostStore_result addr v s, hostStore_order addr v s⟩
  · exact absurd rfl ha

/-- Settles O48: of all core moves only the normal end of a command other than PASS writes RESULT. -/
theorem resultWrittenOnlyByResultCommands : Obligations.ResultWrittenOnlyByResultCommands := by
  unfold Obligations.ResultWrittenOnlyByResultCommands
  refine ⟨rfl, fun s t hl hs hne => ?_⟩
  obtain ⟨ht, hc⟩ | ⟨a, ht, ha⟩ := step_next hs
  · right
    cases coreMove_of_coreStep hc with
    | idle => simp at hne
    | @result i r hb hd hi =>
      rw [nextTurn_status] at hb
      rw [nextTurn_pend] at hd
      refine ⟨ht, hb, ⟨i, hd, hi⟩, rfl, rfl, ?_⟩
      rw [finishWith_status, Status.finished_err, nextTurn_status]
      exact (Status.legal_busy hl hb).2.1
    | error => simp at hne
    | start => simp at hne
    | sample => simp at hne
  · left
    by_contra hr
    exact hne ((hostStep_readOnly ha fun h0 => hr (h0 ▸ ht)).1.trans (nextTurn_result s))

/-- A command other than PASS neither reads nor writes ORDER (R29). -/
theorem exec_order_irrelevant {i : Instr} {s t : State} (o : BitVec 5) (hi : i ≠ .pass) (h : exec i s = .next t) :
    exec i { s with order := o } = .next { t with order := o } := by
  cases i with
  | ispow2 => cases h; rfl
  | findmsb =>
    simp only [exec, execFindmsb] at h ⊢
    split at h <;> cases h
    · next h0 => exact if_pos h0
    · next h0 => exact if_neg h0
  | dilate => cases h; rfl
  | bitrev => cases h; rfl
  | xoril => cases h; rfl
  | bayer k =>
    simp only [exec, execBayer] at h ⊢
    split at h <;> cases h
    · next h0 => exact if_pos h0
    · next h0 => exact if_neg h0
  | quant k =>
    simp only [exec, execQuant] at h ⊢
    split at h
    · next h0 => cases h; exact if_pos h0
    · next h0 =>
      refine (if_neg h0).trans ?_
      split at h <;> cases h
      · next h1 => exact if_pos h1
      · next h1 => exact if_neg h1
  | pass => exact absurd rfl hi

/-- Settles O49: of all core moves only the check step of a PASS that passes writes ORDER. -/
theorem orderWrittenOnlyByPassingPass : Obligations.OrderWrittenOnlyByPassingPass := by
  unfold Obligations.OrderWrittenOnlyByPassingPass
  refine ⟨rfl, fun s => ?_, fun s t hs hne => ?_, fun i s t o hi h => exec_order_irrelevant o hi h⟩
  · have hread : busRead .word 0x24 s = s.order.setWidth 32 := rfl
    rw [hread, BitVec.toNat_setWidth]
    omega
  · obtain ⟨ht, hc⟩ | ⟨a, ht, ha⟩ := step_next hs
    · right
      cases coreMove_of_coreStep hc with
      | idle => simp at hne
      | result => simp at hne
      | error => simp at hne
      | start hb hp htodo hpass =>
        have horder := (passRunning_passStart hb hp hpass).order
        have hsamples : passSamples (nextTurn s).2 = passSamples s := passSamples_congr (by simp) (by simp) (by simp)
        have herr : passError (nextTurn s).2 = passError s :=
          passError_congr (by simp) (by simp) (by simp) (by simp) (by simp) (by simp) (by simp)
        simp only [nextTurn_status, nextTurn_pend, nextTurn_todo, passStart_width, nextTurn_width] at *
        exact ⟨ht, hb, decode_eq_pass_iff.2 hp, htodo, herr ▸ hpass, horder, hsamples ▸ rfl⟩
      | sample => simp at hne
    · left
      by_contra hr
      exact hne ((hostStep_readOnly ha fun h0 => hr (h0 ▸ ht)).2.trans (nextTurn_order s))

/-- Two states hold the same values in the registers that commands read and in PEND (10_state.md R36, R64). -/
structure SameOperands (s t : State) : Prop where
  opa : t.opa = s.opa
  opb : t.opb = s.opb
  width : t.width = s.width
  height : t.height = s.height
  channels : t.channels = s.channels
  colors : t.colors = s.colors
  srcBase : t.srcBase = s.srcBase
  dstBase : t.dstBase = s.dstBase
  pend : t.pend = s.pend

theorem CoreMove.sameOperands {s t : State} (h : CoreMove s t) : SameOperands s t := by
  cases h with
  | idle => constructor <;> rfl
  | result => constructor <;> rfl
  | error => constructor <;> rfl
  | start => constructor <;> rfl
  | sample => constructor <;> simp

theorem hostStep_sameOperands {a : HostAction} {s t : State} (h : hostStep a s = .next t) (ha : a ≠ .reset)
    (hb : s.status.busy = true) : SameOperands s t := by
  obtain ⟨w, off, -, rfl⟩ | ⟨w, off, v, -, rfl⟩ | ⟨addr, -, -, rfl⟩ | ⟨addr, v, -, -, rfl⟩ | ⟨rfl, -⟩ :=
    hostStep_next h
  · constructor <;> rfl
  · obtain ⟨st, e, -⟩ := busWrite_busy hb w off v
    rw [e]
    constructor <;> rfl
  · obtain ⟨m, ah, p, d, b, e⟩ := hostLoad_frame addr s
    rw [e]
    constructor <;> rfl
  · obtain ⟨m, ah, p, d, e⟩ := hostStore_frame addr v s
    rw [e]
    constructor <;> rfl
  · exact absurd rfl ha

/-- Settles O50: no core move, and no host action but reset while BUSY = 1, writes an operand register. -/
theorem operandsConstantDuringCommand : Obligations.OperandsConstantDuringCommand := by
  unfold Obligations.OperandsConstantDuringCommand
  intro s t hs hreset hturn
  have h : SameOperands (nextTurn s).2 t := by
    obtain ⟨-, hc⟩ | ⟨a, ht, ha⟩ := step_next hs
    · exact (coreMove_of_coreStep hc).sameOperands
    · refine hostStep_sameOperands ha (fun h0 => hreset (h0 ▸ ht)) ?_
      rw [nextTurn_status]
      exact hturn.resolve_left (by simp [ht])
  obtain ⟨h1, h2, h3, h4, h5, h6, h7, h8, h9⟩ := h
  simp only [nextTurn_opa, nextTurn_opb, nextTurn_width, nextTurn_height, nextTurn_channels, nextTurn_colors,
    nextTurn_srcBase, nextTurn_dstBase, nextTurn_pend] at *
  exact ⟨h1, h2, h3, h4, h5, h6, h7, h8, h9⟩

/-- Settles O44: both ends of such a command leave memory and every register but RESULT and STATUS. -/
theorem registerCommandFrame : Obligations.RegisterCommandFrame := by
  unfold Obligations.RegisterCommandFrame
  intro i s t hi h
  obtain ⟨-, r, rfl⟩ | ⟨e, rfl⟩ | ⟨rfl, -⟩ | ⟨rfl, -⟩ := exec_next h
  · exact ⟨rfl, rfl, rfl, rfl, rfl, rfl, rfl, rfl, rfl, rfl, rfl, rfl, rfl, State.byteAt_congr rfl⟩
  · exact ⟨rfl, rfl, rfl, rfl, rfl, rfl, rfl, rfl, rfl, rfl, rfl, rfl, rfl, State.byteAt_congr rfl⟩
  · exact absurd rfl hi
  · exact absurd rfl hi

/-! ## OVR -/

/-- Where a register other than STATUS is found: at a multiple of 4 up to 0x2C, 0x04 apart (R14). -/
theorem offset_of_ne_status {off : BitVec 6} {r : Reg} (h : regAt off = some r) (hr : r ≠ .status) :
    off ≠ 0x04 ∧ off.toNat % 4 = 0 ∧ off.toNat ≤ 0x2C := by
  obtain rfl := offset_of_regAt h
  cases r with
  | status => exact absurd rfl hr
  | _ => decide

/-- No multiple of 4 up to 0x2C is without a register (R14). -/
theorem regAt_eq_none : ∀ off : BitVec 6, regAt off = none → ¬ (off.toNat % 4 = 0 ∧ off.toNat ≤ 0x2C) := by
  decide

theorem regAt_of_offset {off : BitVec 6} (h4 : off ≠ 0x04) (hm : off.toNat % 4 = 0) (hle : off.toNat ≤ 0x2C) :
    ∃ r, regAt off = some r ∧ r ≠ .status := by
  cases hr : regAt off with
  | none => exact absurd ⟨hm, hle⟩ (regAt_eq_none off hr)
  | some r => exact ⟨r, rfl, by rintro rfl; exact h4 (offset_of_regAt hr)⟩

/-- A step whose turn is the host's is that host action. -/
theorem step_of_host {s : State} {a : HostAction} (h : (nextTurn s).1 = .host a) :
    step s = hostStep a (nextTurn s).2 := by
  rw [step, h, takeTurn]

/-- A 32-bit write to a register other than STATUS while BUSY = 1 sets OVR (R20). -/
theorem hostStep_write_busy_ovr {s t : State} {off : BitVec 6} {r : Reg} {v : Word} (hr : regAt off = some r)
    (hne : r ≠ .status) (hb : s.status.busy = true) (h : hostStep (.write .word off v) s = .next t) :
    t.status.ovr = true := by
  cases h
  rw [busWrite, accessedReg, hr]
  simp [writeReg_status, hne, hb]

/-- OVR is set by a write ignored because BUSY = 1, and by nothing else (R20). -/
theorem StatusMove.ovr_set {st su : Status} {turn : Turn} (h : StatusMove st turn su) (h0 : st.ovr = false)
    (h1 : su.ovr = true) :
    st.busy = true ∧ su.err = st.err ∧ su.errcode = st.errcode ∧
      ∃ off v r, turn = .host (.write .word off v) ∧ regAt off = some r ∧ r ≠ .status := by
  cases h with
  | kept => simp [h0] at h1
  | finished => simp [h0] at h1
  | raised => simp [h0] at h1
  | cleared v => simp [h0] at h1
  | overrun v hr hne hb => exact ⟨hb, rfl, rfl, _, v, _, rfl, hr, hne⟩
  | accepted => simp [h0] at h1
  | reset => cases h1

/-- OVR is cleared by a write of 1 to its bit of STATUS and by reset, and by nothing else (R20). -/
theorem StatusMove.ovr_cleared {st su : Status} {turn : Turn} (h : StatusMove st turn su) (h1 : st.ovr = true)
    (h0 : su.ovr = false) :
    turn = .host .reset ∨ ∃ v : Word, turn = .host (.write .word 0x04 v) ∧ v.getLsbD 3 = true := by
  cases h with
  | kept => simp [h0] at h1
  | finished => simp [h1] at h0
  | raised => simp [h1] at h0
  | cleared v hr =>
    obtain rfl := offset_of_regAt hr
    rw [Status.hostWrite_ovr, h1] at h0
    exact .inr ⟨v, rfl, by simpa using h0⟩
  | overrun => cases h0
  | accepted => simp [h1] at h0
  | reset => exact .inl rfl

/-- Settles O51: `StatusMove` gives what can set and clear OVR; that the events named always do is the host's write and
reset themselves. -/
theorem overrunChangesOnlyAsStated : Obligations.OverrunChangesOnlyAsStated := by
  unfold Obligations.OverrunChangesOnlyAsStated
  intro s t hs
  have hmove := step_statusMove hs
  refine ⟨fun h0 h1 => ?_, fun off v ht hb h4 hm hle => ?_, hmove.ovr_cleared, fun h => ?_⟩
  · obtain ⟨hb, herr, hcode, off, v, r, ht, hr, hne⟩ := hmove.ovr_set h0 h1
    exact ⟨hb, herr, hcode, off, v, ht, offset_of_ne_status hr hne⟩
  · obtain ⟨r, hr, hne⟩ := regAt_of_offset h4 hm hle
    rw [step_of_host ht] at hs
    exact hostStep_write_busy_ovr hr hne (by rwa [nextTurn_status]) hs
  · obtain ht | ⟨v, ht, hv⟩ := h
    · rw [step_of_host ht] at hs
      cases hs
      rfl
    · rw [step_of_host ht, hostStep_write_status] at hs
      cases hs
      simp only [hv, Bool.not_true, Bool.and_false]

end Sys2Proof.Machine
end

section
/-! The core's turn and the host's register accesses, as the statements of the family ask for them (spec 10_state.md
R14, R15, R32, R35 to R40). -/

namespace Sys2Proof.Machine

/-- Settles O6: the core's turn of a busy core is `exec` of the decoded word. -/
theorem stepRunsDecodedCommand : Obligations.StepRunsDecodedCommand := by
  unfold Obligations.StepRunsDecodedCommand
  intro s i hb hd
  exact ⟨fun h => (step_of_nil h).trans (coreStep_of_ok hb hd),
    fun rest h => (step_of_cons h).trans (coreStep_of_ok hb hd)⟩

/-- Settles O9: the accepted state has the core's turn at the head of its schedule. -/
theorem fetchWordStepRunsCommand : Obligations.FetchWordStepRunsCommand := by
  unfold Obligations.FetchWordStepRunsCommand
  intro s nbits w i h
  have hd : decode (BitVec.ofNat 32 (w % 2 ^ nbits)) = .ok i := by
    unfold decodeTableWord at h
    cases hd : decode (BitVec.ofNat 32 (w % 2 ^ nbits)) with
    | ok j => simpa [hd, Except.toOption] using h
    | error r => simp [hd, Except.toOption] at h
  have hturn : (s.withFetchWord nbits w).schedule = .core :: s.schedule := rfl
  rw [step_of_cons hturn]
  exact coreStep_of_ok rfl hd

/-- Settles O10: the write accepts, and the core step after it decodes. -/
theorem commandWriteWhileIdleAccepts : Obligations.CommandWriteWhileIdleAccepts := by
  unfold Obligations.CommandWriteWhileIdleAccepts
  have haccept : writesIdle 0x00 accept := writesIdle_reg (r := .cmd) (by decide)
  refine ⟨haccept, fun s w rest hs hb => ?_⟩
  have hrun : run 2 s = coreStep (accept w { s with schedule := rest }) := by
    have hturn : (accept w { s with schedule := .core :: rest }).schedule = .core :: rest := rfl
    rw [run_succ_of_next (haccept s w _ hs hb), run_one]
    exact step_of_cons hturn
  rw [hrun]
  exact ⟨fun i hd => coreStep_of_ok rfl hd, fun r hd => coreStep_of_error rfl hd⟩

/-- Settles O11: one rule for all registers but STATUS, one for STATUS, one for offsets without a register. -/
theorem writeWhileBusyOnlySetsOverrun : Obligations.WriteWhileBusyOnlySetsOverrun := by
  unfold Obligations.WriteWhileBusyOnlySetsOverrun
  refine ⟨fun off hoff => ?_, writesBusy_status,
    fun off hoff s v rest hs _ => step_write_no_reg (regAt_reserved off hoff) hs⟩
  have hreg : off ∈ List.map Reg.offset
      [.cmd, .opa, .opb, .result, .width, .height, .channels, .colors, .order, .srcBase, .dstBase] := hoff
  obtain ⟨r, hr, rfl⟩ := List.mem_map.1 hreg
  exact writesBusy_reg (ne_of_mem_of_not_mem hr (by decide))

/-- Settles O12: each clause is the write rule of its register. -/
theorem hostWritesByRegister : Obligations.HostWritesByRegister := by
  unfold Obligations.HostWritesByRegister
  exact ⟨writesIdle_status, writesBusy_status,
    writesIdle_reg (r := .result) (by decide), writesIdle_reg (r := .order) (by decide),
    writesBusy_reg (r := .result) (by decide), writesBusy_reg (r := .order) (by decide),
    writesIdle_reg (r := .opa) (by decide), writesIdle_reg (r := .opb) (by decide),
    writesIdle_reg (r := .width) (by decide), writesIdle_reg (r := .height) (by decide),
    writesIdle_reg (r := .channels) (by decide), writesIdle_reg (r := .colors) (by decide),
    writesIdle_reg (r := .srcBase) (by decide), writesIdle_reg (r := .dstBase) (by decide)⟩

/-- Settles O13: each clause is the read rule at its register's offset. -/
theorem hostReadsReturnRegisters : Obligations.HostReadsReturnRegisters := by
  unfold Obligations.HostReadsReturnRegisters
  exact ⟨readsAs_reg .cmd, readsAs_reg .status, readsAs_reg .opa, readsAs_reg .opb, readsAs_reg .result,
    readsAs_reg .width, readsAs_reg .height, readsAs_reg .channels, readsAs_reg .colors, readsAs_reg .order,
    readsAs_reg .srcBase, readsAs_reg .dstBase⟩

/-- A write to ORDER does not depend on what is written (R29, R37). -/
theorem writeReg_order_congr (v w : Word) (s : State) : writeReg .order v s = writeReg .order w s := rfl

/-- Settles O14: nothing is found at a reserved offset, and no word read has a reserved bit set. -/
theorem reservedOffsetsAndBits : Obligations.ReservedOffsetsAndBits := by
  unfold Obligations.ReservedOffsetsAndBits
  refine ⟨fun off hoff => ?_, fun s n hn => ?_, fun s n hn => ?_, fun s v => ?_, fun s v => ?_⟩
  · have hnone := regAt_reserved off hoff
    exact ⟨readsAs_zero hnone, fun s v rest hs _ => step_write_no_reg hnone hs,
      fun s v rest hs _ => step_write_no_reg hnone hs⟩
  · exact Nat.testBit_lt_two_pow (s.status.word_lt.trans_le (Nat.pow_le_pow_right (by decide) hn))
  · rw [readReg, BitVec.getLsbD_setWidth, BitVec.getLsbD_of_ge _ _ hn, Bool.and_false]
  · rw [hostStep_write_status, hostStep_write_status]
    simp
  · exact congrArg Host.Outcome.next (writeReg_order_congr v _ s)

/-- Settles O19: each register reads 0, and an offset without a register does too. -/
theorem powerOnStateMatchesResetTable : Obligations.PowerOnStateMatchesResetTable := by
  unfold Obligations.PowerOnStateMatchesResetTable
  refine ⟨fun off => ?_, rfl, rfl, rfl, fun a => rfl⟩
  cases hr : regAt off with
  | none => exact busRead_of_no_reg hr State.reset
  | some r =>
    rw [busRead_of_regAt hr]
    cases r <;> decide

end Sys2Proof.Machine
end

section
/-! The host's accesses to the register window and to sample memory, and what can change a byte (spec 20_memory.md R42
to R54). -/

namespace Sys2Proof.Machine

/-! ## Turns and host actions -/

/-- A turn is taken in the same state with the turn off the schedule (log entry 4). -/
theorem nextTurn_snd (s : State) : (nextTurn s).2 = { s with schedule := s.schedule.tail } := by
  unfold nextTurn
  split
  · next h =>
    rw [h]
    cases s
    cases h
    rfl
  · next h => rw [h]; rfl

/-- A host read of sample memory answers exactly below MEM_BYTES (20_memory.md R42). -/
theorem hostStep_memRead_eq_next {a : Nat} {s t : State} :
    hostStep (.memRead a) s = .next t ↔ a < s.memBytes ∧ hostLoad a s = t := by
  rw [hostStep]
  split
  · next h => simp [h]
  · next h => simp [Nat.lt_of_not_ge h]

/-- A host write of sample memory answers exactly below MEM_BYTES (R42). -/
theorem hostStep_memWrite_eq_next {a : Nat} {v : Byte} {s t : State} :
    hostStep (.memWrite a v) s = .next t ↔ a < s.memBytes ∧ hostStore a v s = t := by
  rw [hostStep]
  split
  · next h => simp [h]
  · next h => simp [Nat.lt_of_not_ge h]

/-! ## Narrow and misaligned accesses -/

/-- No register is at a misaligned offset (20_memory.md R47). -/
theorem regAt_misaligned : ∀ off : BitVec 6, off.toNat % 4 ≠ 0 → regAt off = none := by decide

/-- A narrow or misaligned access reaches no register (R47). -/
theorem accessedReg_eq_none {w : AccessWidth} {off : BitVec 6} (h : w ≠ .word ∨ off.toNat % 4 ≠ 0) :
    accessedReg w off = none := by
  cases w with
  | byte => rfl
  | half => rfl
  | word => exact regAt_misaligned off (h.resolve_left fun hne => hne rfl)

/-- Settles O15: such an access reaches no register. -/
theorem narrowOrMisalignedAccessDoesNothing : Obligations.NarrowOrMisalignedAccessDoesNothing := by
  unfold Obligations.NarrowOrMisalignedAccessDoesNothing
  intro s w off v h
  have hnone := accessedReg_eq_none h
  constructor
  · rw [hostStep, busRead, hnone]
    rfl
  · rw [hostStep, busWrite, hnone]

/-! ## Every step answers -/

/-- The core's turn answers wherever a PASS with samples left is a running one (43_pass.md R100). -/
theorem coreStep_answers {s : State} (h : s.todo ≠ [] → PassRunning s) : ∃ t, coreStep s = .next t := by
  cases hb : s.status.busy with
  | false => exact ⟨s, by rw [coreStep, hb]; rfl⟩
  | true =>
    by_cases hpass : s.pend = passWord ∧ passError s = none
    · by_cases ht : s.todo = []
      · exact ⟨_, coreStep_passStart hb hpass.1 ht hpass.2⟩
      · obtain ⟨idx, -, hs⟩ := (h ht).coreStep ht
        exact ⟨_, hs⟩
    · have ht : s.todo = [] := by
        by_contra hne
        exact hpass ⟨(h hne).pend, (h hne).checked⟩
      obtain ⟨t, hs, -⟩ := coreStep_ends hb ht (not_and_or.1 hpass)
      exact ⟨t, hs⟩

theorem hostStep_answers {a : HostAction} {s : State} (h : (Turn.host a).inMemory s) :
    ∃ t, hostStep a s = .next t := by
  cases a with
  | read w off => exact ⟨_, rfl⟩
  | write w off v => exact ⟨_, rfl⟩
  | memRead a => exact ⟨_, hostStep_memRead_eq_next.2 ⟨h, rfl⟩⟩
  | memWrite a v => exact ⟨_, hostStep_memWrite_eq_next.2 ⟨h, rfl⟩⟩
  | reset => exact ⟨_, rfl⟩

/-- Settles O47: the invariant makes every PASS with samples left a running one. -/
theorem stepFromInvariantAnswers : Obligations.StepFromInvariantAnswers := by
  unfold Obligations.StepFromInvariantAnswers
  intro s h hturn
  cases ht : (nextTurn s).1 with
  | core =>
    rw [step, ht]
    exact coreStep_answers h.nextTurn.pass
  | host a =>
    rw [step_of_host ht, nextTurn_snd]
    rw [ht] at hturn
    exact hostStep_answers (by cases a <;> exact hturn)

/-! ## What a race can be with -/

/-- An address races as a destination byte only inside the destination range of a running PASS (20_memory.md R54). -/
theorem inDest_of_destRace {s : State} {a idx : Nat} (h : destRace s a = some idx) :
    s.status.busy = true ∧ s.pend = passWord ∧ passError s = none ∧ inDest s a := by
  obtain ⟨hr, rfl, hu, -⟩ := destRace_eq_some.1 h
  obtain ⟨hb, hp, hc⟩ := State.passRuns_iff.1 hr
  exact ⟨hb, hp, hc, Nat.le_add_right _ _, Nat.add_lt_add_left (State.unprocessed_iff.1 hu).1 _⟩

/-- An address races as a source byte only inside the source range of a running PASS (R54). -/
theorem inSource_of_sourceRace {s : State} {a idx : Nat} (h : sourceRace s a = some idx) :
    s.status.busy = true ∧ s.pend = passWord ∧ passError s = none ∧ inSource s a := by
  obtain ⟨hr, rfl, hu, -⟩ := sourceRace_eq_some.1 h
  obtain ⟨hb, hp, hc⟩ := State.passRuns_iff.1 hr
  exact ⟨hb, hp, hc, Nat.le_add_right _ _, Nat.add_lt_add_left (State.unprocessed_iff.1 hu).1 _⟩

theorem destRace_eq_none {s : State} {a : Nat}
    (h : s.status.busy = false ∨ s.pend ≠ passWord ∨ passError s ≠ none ∨ ¬ inDest s a) : destRace s a = none := by
  rw [Option.eq_none_iff_forall_ne_some]
  intro idx hr
  obtain ⟨hb, hp, hc, hd⟩ := inDest_of_destRace hr
  simp [hb, hp, hc, hd] at h

theorem sourceRace_eq_none {s : State} {a : Nat}
    (h : s.status.busy = false ∨ s.pend ≠ passWord ∨ passError s ≠ none ∨ ¬ inSource s a) :
    sourceRace s a = none := by
  rw [Option.eq_none_iff_forall_ne_some]
  intro idx hr
  obtain ⟨hb, hp, hc, hd⟩ := inSource_of_sourceRace hr
  simp [hb, hp, hc, hd] at h

/-! ## What changes a byte of sample memory -/

/-- The core changes a byte only in a sample step, at the destination of an index of TODO (43_pass.md R102). -/
theorem CoreMove.byteAt_changed {s t : State} (h : CoreMove s t) {a : Nat} (hne : t.byteAt a ≠ s.byteAt a) :
    s.status.busy = true ∧ s.pend = passWord ∧ ∃ idx ∈ s.todo, a = destAddress s idx := by
  cases h with
  | idle => exact absurd rfl hne
  | result => exact absurd rfl hne
  | error => exact absurd rfl hne
  | start => exact absurd rfl hne
  | @sample idx hb hp hi =>
    refine ⟨hb, hp, idx, hi, ?_⟩
    by_contra ha
    exact hne (by rw [byteAt_sample, if_neg fun h => ha h.1])

/-- A host read changes a byte only where it races with the core's write of that byte (20_memory.md R54). -/
theorem destRace_of_hostLoad_changed {s : State} {a b : Nat} (hne : (hostLoad a s).byteAt b ≠ s.byteAt b) :
    b = a ∧ ∃ idx, destRace s a = some idx := by
  refine ⟨by_contra fun hba => hne (byteAt_hostLoad hba s), ?_⟩
  cases hd : destRace s a with
  | none => exact absurd (by rw [hostLoad_of_noRace hd]; rfl) hne
  | some idx => exact ⟨idx, rfl⟩

/-- A host action changes a byte only by a write to it, or by a read of it that races (R54). -/
theorem hostStep_byteAt_changed {a : HostAction} {s t : State} (h : hostStep a s = .next t) {b : Nat}
    (hne : t.byteAt b ≠ s.byteAt b) :
    (∃ v, a = .memWrite b v) ∨ (a = .memRead b ∧ ∃ idx, destRace s b = some idx) := by
  obtain ⟨w, off, -, rfl⟩ | ⟨w, off, v, -, rfl⟩ | ⟨addr, rfl, -, rfl⟩ | ⟨addr, v, rfl, -, rfl⟩ | ⟨-, rfl⟩ :=
    hostStep_next h
  · exact absurd rfl hne
  · exact absurd (State.byteAt_congr (busWrite_mem w off v s) b) hne
  · obtain ⟨rfl, hd⟩ := destRace_of_hostLoad_changed hne
    exact .inr ⟨rfl, hd⟩
  · have hb : b = addr := by_contra fun hba => hne (by rw [byteAt_hostStore, if_neg hba])
    exact .inl ⟨v, hb ▸ rfl⟩
  · exact absurd rfl hne

/-- Settles O52: the core writes only destination bytes of TODO, the host only what it accesses. -/
theorem sampleMemoryWrittenOnlyByPassAndHost : Obligations.SampleMemoryWrittenOnlyByPassAndHost := by
  unfold Obligations.SampleMemoryWrittenOnlyByPassAndHost
  intro s t a hs hne
  replace hne : t.byteAt a ≠ (nextTurn s).2.byteAt a := by rwa [nextTurn_snd]
  obtain ⟨ht, hc⟩ | ⟨act, ht, ha⟩ := step_next hs
  · obtain ⟨hb, hp, hd⟩ := (coreMove_of_coreStep hc).byteAt_changed hne
    rw [nextTurn_snd] at hb hp hd
    exact .inl ⟨ht, hb, decode_eq_pass_iff.2 hp, hd⟩
  · obtain ⟨v, rfl⟩ | ⟨rfl, idx, hd⟩ := hostStep_byteAt_changed ha hne
    · exact .inr (.inl ⟨v, ht⟩)
    · rw [nextTurn_snd] at hd
      obtain ⟨hb, hp, -, hin⟩ := inDest_of_destRace hd
      exact .inr (.inr ⟨ht, hb, decode_eq_pass_iff.2 hp, hin⟩)

/-! ## Host accesses to sample memory -/

/-- Settles O56: where the premises leave no race, the access is plain. -/
theorem hostMemoryAccess : Obligations.HostMemoryAccess := by
  unfold Obligations.HostMemoryAccess
  intro s a v rest
  refine ⟨fun hs ha h => ?_, fun hs ha h => ?_, fun ha hs => ?_⟩
  · rw [step_of_cons hs]
    refine hostStep_memRead_eq_next.2 ⟨Nat.lt_succ_of_le ha, ?_⟩
    exact hostLoad_of_noRace (s := { s with schedule := rest }) (destRace_eq_none h)
  · have hsrc : sourceRace s a = none := sourceRace_eq_none (h.imp_right (.imp_right (.imp_right And.left)))
    have hdst : destRace s a = none := destRace_eq_none (h.imp_right (.imp_right (.imp_right And.right)))
    refine ⟨hostStore a v { s with schedule := rest }, ?_, ?_, fun b => byteAt_hostStore a v _ b⟩
    · rw [step_of_cons hs]
      exact hostStep_memWrite_eq_next.2 ⟨Nat.lt_succ_of_le ha, rfl⟩
    · rw [hostStore_of_noRace (s := { s with schedule := rest }) v hsrc hdst]
      rfl
  · have hge : a ≥ s.memBytes := ha
    obtain hs | hs := hs <;> rw [step_of_cons hs] <;> exact if_pos hge

/-- The final output byte of an index of a running PASS, written out (43_pass.md R98, R104). -/
theorem aheadOutput_eq {s : State} (hc : passError s = none) (idx : Nat) :
    aheadOutput s idx = outputFor s idx (sourceByte s idx) := by
  obtain ⟨-, -, hk, -⟩ := passError_none hc
  have hk : (BitVec.ofNat 5 (findMSB s.width)).toNat = findMSB s.width := Nat.mod_eq_of_lt (by omega)
  simp only [aheadOutput, sampleOutput, sampleCoef, hk]
  rfl

/-- The byte the core computes an index from is the one it read ahead, or the current one (R54). -/
theorem sourceByte_cases {s : State} {idx : Nat} (h : s.ahead.lookup idx ≠ some .written) :
    (s.ahead.lookup idx = none ∧ sourceByte s idx = s.byteAt (sourceAddress s idx)) ∨
      s.ahead.lookup idx = some (.read (sourceByte s idx)) := by
  unfold sourceByte
  split
  · next hl => exact .inr hl
  · next hl => exact absurd hl h
  · next hl => exact .inl ⟨hl, rfl⟩

/-- A host access to a destination byte finds the byte as it was, or the final byte of its unprocessed index (R54). -/
theorem byteAt_raceOnDest_cases (a : Nat) (s : State) :
    (raceOnDest a s).byteAt a = s.byteAt a ∨
      ∃ idx, destRace s a = some idx ∧ (raceOnDest a s).byteAt a = outputFor s idx (sourceByte s idx) := by
  obtain ⟨-, e⟩ | ⟨idx, hd, ⟨-, e⟩ | ⟨-, e⟩⟩ := raceOnDest_cases a s <;> rw [e]
  · exact .inl rfl
  · obtain ⟨hr, rfl, -⟩ := destRace_eq_some.1 hd
    refine .inr ⟨idx, hd, (byteAt_writeAhead idx s.usePick _).trans ((if_pos rfl).trans ?_)⟩
    exact aheadOutput_eq (s := s) (State.passRuns_iff.1 hr).2.2 idx
  · exact .inl rfl

/-- What a host read of sample memory returns: the byte as the race, if there is one, leaves it. -/
theorem hostLoad_replies (a : Nat) (s : State) :
    (hostLoad a s).replies = s.replies ++ [.byte ((raceOnDest a s).byteAt a)] := by
  obtain ⟨m, ah, p, d, e⟩ := raceOnDest_frame a s
  rw [hostLoad, e]
  rfl

/-- Settles O57: the cases of a race at a destination byte, and the frames of the two accesses. -/
theorem hostAccessReturnsOldOrFinalByte : Obligations.HostAccessReturnsOldOrFinalByte := by
  unfold Obligations.HostAccessReturnsOldOrFinalByte
  intro s t a hs
  have hread : (nextTurn s).1 = .host (.memRead a) → hostLoad a { s with schedule := s.schedule.tail } = t :=
    fun ht => (hostStep_memRead_eq_next.1 (by rw [← nextTurn_snd, ← step_of_host ht, hs])).2
  have hwrite : ∀ v, (nextTurn s).1 = .host (.memWrite a v) →
      hostStore a v { s with schedule := s.schedule.tail } = t :=
    fun v ht => (hostStep_memWrite_eq_next.1 (by rw [← nextTurn_snd, ← step_of_host ht, hs])).2
  refine ⟨fun ht => ?_, fun v ht => ?_, ?_⟩
  · obtain rfl := hread ht
    refine ⟨_, hostLoad_replies a _, rfl, ?_⟩
    refine (byteAt_raceOnDest_cases a { s with schedule := s.schedule.tail }).imp_right ?_
    rintro ⟨idx, hd, hb⟩
    obtain ⟨hr, ha, hu, hl⟩ := destRace_eq_some.1 hd
    obtain ⟨hbusy, hp, hc⟩ := State.passRuns_iff.1 hr
    obtain ⟨hi, hu⟩ := State.unprocessed_iff.1 hu
    exact ⟨hbusy, hp, hc, idx, hi, hu, ha, _, hb, sourceByte_cases hl⟩
  · obtain rfl := hwrite v ht
    constructor
    · obtain ⟨m, ah, p, d, e⟩ := hostStore_frame a v { s with schedule := s.schedule.tail }
      rw [e]
    · rw [byteAt_hostStore, if_pos rfl]
  · rintro (ht | ⟨v, ht⟩)
    · obtain rfl := hread ht
      refine ⟨fun b hb => byteAt_hostLoad hb _, ?_⟩
      obtain ⟨m, ah, p, d, b, e⟩ := hostLoad_frame a { s with schedule := s.schedule.tail }
      rw [e]
    · obtain rfl := hwrite v ht
      refine ⟨fun b hb => (byteAt_hostStore a v _ b).trans (if_neg hb), ?_⟩
      obtain ⟨m, ah, p, d, e⟩ := hostStore_frame a v { s with schedule := s.schedule.tail }
      rw [e]

end Sys2Proof.Machine
end

section
/-! What the destination of a running PASS ends as, and what the core's turns keep of it: whatever the order of the
samples, every byte ends as its final value (spec 20_memory.md R52, 43_pass.md R99, R104). -/

namespace Sys2Proof.Machine

/-! ## The record of what a race put first -/

/-- Taking the records of one index away leaves those of the others. -/
theorem lookup_filter_ne {i j : Nat} (h : j ≠ i) (l : List (Nat × Ahead)) :
    (l.filter (·.1 != i)).lookup j = l.lookup j := by
  induction l with
  | nil => rfl
  | cons e l ih =>
    obtain ⟨k, x⟩ := e
    rw [List.filter_cons]
    split
    · rw [List.lookup_cons, List.lookup_cons, ih]
    · next hk =>
      have hj : (j == k) = false := beq_eq_false_iff_ne.2 fun hjk => hk (by simpa [← hjk] using h)
      rw [ih, List.lookup_cons, hj]

/-! ## What a byte ends as -/

/-- What is held at an address once the running PASS has ended, if only the core moves until then: at a destination
byte the core has still to write its output (R104), anywhere else what is there. -/
def State.eventual (s : State) (a : Nat) : Option Byte :=
  match destRace s a with
  | none => s.mem.cell a
  | some idx => some (outputFor s idx (sourceByte s idx))

theorem eventual_of_noRace {s : State} {a : Nat} (h : destRace s a = none) : s.eventual a = s.mem.cell a := by
  rw [State.eventual, h]

theorem eventual_of_race {s : State} {a idx : Nat} (h : destRace s a = some idx) :
    s.eventual a = some (outputFor s idx (sourceByte s idx)) := by
  rw [State.eventual, h]

/-- A byte ends as before where its race, what is there and the output still to come are as before. -/
theorem eventual_congr {s t : State} {a : Nat} (hrace : destRace t a = destRace s a)
    (hcell : t.mem.cell a = s.mem.cell a)
    (hout : ∀ j, destRace s a = some j → outputFor t j (sourceByte t j) = outputFor s j (sourceByte s j)) :
    t.eventual a = s.eventual a := by
  cases hs : destRace s a with
  | none => rw [eventual_of_noRace hs, eventual_of_noRace (hrace.trans hs), hcell]
  | some j => rw [eventual_of_race hs, eventual_of_race (hrace.trans hs), hout j hs]

/-- The source byte of an index depends on its record and on the byte at its address. -/
theorem sourceByte_congr {s t : State} {j : Nat} (hl : t.ahead.lookup j = s.ahead.lookup j)
    (hb : t.byteAt (sourceAddress t j) = s.byteAt (sourceAddress s j)) : sourceByte t j = sourceByte s j := by
  unfold sourceByte
  rw [hl, hb]

/-- No destination byte is a source byte (43_pass.md R97). -/
theorem sourceAddress_ne_destAddress {s : State} (hc : passError s = none) {i j : Nat} (hi : i < passSamples s)
    (hj : j < passSamples s) : sourceAddress s j ≠ destAddress s i := by
  obtain ⟨-, -, -, -, -, -, -, hdisj⟩ := passError_none hc
  unfold sourceAddress destAddress
  omega

theorem destAddress_inj {s : State} {i j : Nat} : destAddress s i = destAddress s j ↔ i = j := Nat.add_left_cancel_iff

/-! ## The stages of a PASS -/

/-- A PASS that passes its checks, by the number of core steps it has left (70_reset_and_hazards.md R140). -/
inductive PassLeft (s : State) : Nat → Prop
  /-- Accepted, its check step next. -/
  | accepted : s.status.busy = true → s.pend = passWord → passError s = none → s.todo = [] →
      PassLeft s (passSamples s + 1)
  /-- Running, with samples left. -/
  | running {n : Nat} : PassRunning s → s.kReg = s.order → s.todo.length = n + 1 → PassLeft s (n + 1)
  /-- Ended normally. -/
  | ended : s.status.busy = false → s.status.done = true → s.todo = [] → s.ahead = [] →
      s.order = BitVec.ofNat 5 (findMSB s.width) → s.kReg = BitVec.ofNat 5 (findMSB s.width) → PassLeft s 0

/-- A PASS that has steps left is running. -/
protected theorem PassLeft.passRuns {s : State} {n : Nat} (h : PassLeft s (n + 1)) : s.passRuns = true := by
  cases h with
  | accepted hb hp hc => exact State.passRuns_iff.2 ⟨hb, hp, hc⟩
  | running hr => exact hr.passRuns

/-- What a PASS does not depend on: a STATUS with the same BUSY, memory, the turns and choices to come, the replies and
the record of its races. -/
theorem PassLeft.update {s : State} {n : Nat} (h : PassLeft s (n + 1)) {st : Status}
    (hst : st.busy = s.status.busy) (m : Memory) (l : List Turn) (p : List Nat) (d : Nat) (rs : List Reply)
    (ah : List (Nat × Ahead)) :
    PassLeft { s with status := st, mem := m, schedule := l, picks := p, draws := d, replies := rs, ahead := ah }
      (n + 1) := by
  cases h with
  | accepted hb hp hc ht => exact .accepted (hst.trans hb) hp hc ht
  | running hr hk hlen => exact .running { hr with busy := hst.trans hr.busy } hk hlen

/-- No host action but reset takes a PASS further or ends it (10_state.md R36). -/
theorem PassLeft.hostStep {s t : State} {n : Nat} {a : HostAction} (h : PassLeft s (n + 1)) (ha : a ≠ .reset)
    (hs : hostStep a s = .next t) : PassLeft t (n + 1) := by
  obtain ⟨w, off, -, rfl⟩ | ⟨w, off, v, -, rfl⟩ | ⟨addr, -, -, rfl⟩ | ⟨addr, v, -, -, rfl⟩ | ⟨rfl, -⟩ :=
    hostStep_next hs
  · exact h.update rfl ..
  · obtain ⟨st, e, hst, -⟩ := busWrite_busy (State.passRuns_iff.1 h.passRuns).1 w off v
    rw [e]
    exact h.update hst ..
  · obtain ⟨m, ah, p, d, b, e⟩ := hostLoad_frame addr s
    rw [e]
    exact h.update rfl ..
  · obtain ⟨m, ah, p, d, e⟩ := hostStore_frame addr v s
    rw [e]
    exact h.update rfl ..
  · exact absurd rfl ha

/-! ## What the core's turns of a PASS keep -/

/-- What the core's turns of a PASS that passes its checks do from one state to a later one: no register changes but
STATUS at the end and ORDER, no byte ends other than it would have, and a destination byte still to be written was
still to be written before and holds what it held. -/
structure PassMoves (s t : State) : Prop where
  frame : t = { s with
    status := t.status, order := t.order, kReg := t.kReg, todo := t.todo, mem := t.mem, ahead := t.ahead
    schedule := t.schedule, picks := t.picks, draws := t.draws }
  status : t.status = s.status ∨ t.status = s.status.finished
  ahead : t.ahead.Sublist s.ahead
  wf : s.mem.wf → t.mem.wf
  eventual : ∀ a, t.eventual a = s.eventual a
  pending : ∀ a idx, destRace t a = some idx → destRace s a = some idx ∧ t.mem.cell a = s.mem.cell a

protected theorem PassMoves.refl (s : State) : PassMoves s s :=
  ⟨rfl, .inl rfl, .refl _, id, fun _ => rfl, fun _ _ h => ⟨h, rfl⟩⟩

protected theorem PassMoves.trans {s t u : State} (h : PassMoves s t) (k : PassMoves t u) : PassMoves s u where
  frame := by rw [k.frame, h.frame]
  status := by
    obtain hk | hk := k.status <;> obtain hh | hh := h.status <;> simp [hk, hh, Status.finished]
  ahead := k.ahead.trans h.ahead
  wf := k.wf ∘ h.wf
  eventual := fun a => (k.eventual a).trans (h.eventual a)
  pending := fun a idx hu =>
    let ⟨ht, hc⟩ := k.pending a idx hu
    let ⟨hs, hc'⟩ := h.pending a idx ht
    ⟨hs, hc.trans hc'⟩

/-- The turns to come play no part in it. -/
protected theorem PassMoves.schedule (s : State) (l : List Turn) : PassMoves s { s with schedule := l } :=
  ⟨rfl, .inl rfl, .refl _, id, fun _ => rfl, fun _ _ h => ⟨h, rfl⟩⟩

/-- The check step of a PASS that passes leaves the same destination bytes to be written (43_pass.md R97). -/
theorem destRace_passStart {s : State} (ht : s.todo = []) (a : Nat) : destRace (passStart s) a = destRace s a := by
  refine Option.ext fun j => ?_
  have hu : (passStart s).unprocessed j = true ↔ s.unprocessed j = true := by
    have hS : passSamples (passStart s) = passSamples s := rfl
    simp only [State.unprocessed_iff, passStart_todo, List.mem_range, ht, hS, true_or, and_true]
    exact and_iff_left_of_imp .inr
  rw [destRace_eq_some, destRace_eq_some, hu]
  rfl

theorem passMoves_passStart {s : State} (ht : s.todo = []) : PassMoves s (passStart s) where
  frame := rfl
  status := .inl rfl
  ahead := .refl _
  wf := id
  eventual := fun a => eventual_congr (destRace_passStart ht a) rfl fun _ _ => rfl
  pending := fun a _ h => ⟨destRace_passStart ht a ▸ h, rfl⟩

/-! ## The sample step -/

/-- What a sample step computes is the final output of its index (R98, R104). -/
theorem PassRunning.sampleOutput_eq {s : State} (h : PassRunning s) (hk : s.kReg = s.order) (idx : Nat) :
    sampleOutput s idx = outputFor s idx (sourceByte s idx) := by
  have hk : s.kReg.toNat = findMSB s.width := hk ▸ h.order
  simp only [sampleOutput, sampleCoef, hk]
  rfl

/-- What is held at an address after a sample step's store (R98, R102). -/
theorem cell_sampledMemory (s : State) (idx a : Nat) :
    (sampledMemory s idx).cell a =
      if a = destAddress s idx ∧ s.ahead.lookup idx ≠ some .written then some (sampleOutput s idx)
      else s.mem.cell a := by
  unfold sampledMemory
  split
  · next h => simp [h]
  · next h => rw [Memory.cell_writeByte]; simp [h]
  · next h => rw [Memory.cell_writeByte]; simp [h]

/-- The destination bytes a running PASS has still to write are those of TODO that no race has put first (R98). -/
theorem PassRunning.destRace_eq_some {s : State} (h : PassRunning s) (hne : s.todo ≠ []) {a j : Nat} :
    destRace s a = some j ↔ a = destAddress s j ∧ j ∈ s.todo ∧ s.ahead.lookup j ≠ some .written := by
  rw [Machine.destRace_eq_some, State.unprocessed_iff]
  constructor
  · rintro ⟨-, ha, ⟨-, hj⟩, hl⟩
    exact ⟨ha, hj.resolve_left hne, hl⟩
  · rintro ⟨ha, hj, hl⟩
    exact ⟨h.passRuns, ha, ⟨h.below j hj, .inr hj⟩, hl⟩

theorem mem_todo_storeSample {s : State} {idx j : Nat} : j ∈ (storeSample idx s).todo ↔ j ∈ s.todo ∧ j ≠ idx := by
  simp

/-- A sample step takes the destination byte of its index from those still to be written (R98). -/
theorem PassRunning.destRace_sample {s : State} (h : PassRunning s) {idx : Nat} (hi : idx ∈ s.todo) {a j : Nat} :
    destRace (finishIfDone (storeSample idx s)) a = some j ↔ destRace s a = some j ∧ j ≠ idx := by
  rw [h.destRace_eq_some (List.ne_nil_of_mem hi)]
  obtain ⟨h0, e⟩ | ⟨hne, e⟩ := finishIfDone_cases (storeSample idx s) <;> rw [e]
  · rw [destRace_eq_none (.inl rfl)]
    constructor
    · intro hn
      cases hn
    · rintro ⟨⟨-, hj, -⟩, hji⟩
      exact absurd h0 (List.ne_nil_of_mem (mem_todo_storeSample.2 ⟨hj, hji⟩))
  · rw [(h.storeSample idx).destRace_eq_some hne, mem_todo_storeSample, storeSample_ahead]
    constructor
    · rintro ⟨ha, ⟨hj, hji⟩, hl⟩
      exact ⟨⟨ha, hj, lookup_filter_ne hji s.ahead ▸ hl⟩, hji⟩
    · rintro ⟨⟨ha, hj, hl⟩, hji⟩
      exact ⟨ha, ⟨hj, hji⟩, (lookup_filter_ne hji s.ahead).symm ▸ hl⟩

/-- The source byte of any other index is as before a sample step: its record is kept, and no source byte is written
(R97). -/
theorem PassRunning.sourceByte_storeSample {s : State} (h : PassRunning s) {idx j : Nat} (hi : idx ∈ s.todo)
    (hj : j ∈ s.todo) (hji : j ≠ idx) : sourceByte (storeSample idx s) j = sourceByte s j := by
  refine sourceByte_congr (lookup_filter_ne hji s.ahead) ?_
  have hne := sourceAddress_ne_destAddress h.checked (h.below idx hi) (h.below j hj)
  exact (readByte_sampledMemory s idx _).trans (if_neg fun ha => hne ha.1)

/-- A sample step does not change what any byte ends as. -/
theorem PassRunning.eventual_sample {s : State} (h : PassRunning s) (hk : s.kReg = s.order) {idx : Nat}
    (hi : idx ∈ s.todo) (a : Nat) : (finishIfDone (storeSample idx s)).eventual a = s.eventual a := by
  have hcell : (finishIfDone (storeSample idx s)).mem.cell a =
      if a = destAddress s idx ∧ s.ahead.lookup idx ≠ some .written then some (sampleOutput s idx)
      else s.mem.cell a := by
    rw [finishIfDone_mem]
    exact cell_sampledMemory s idx a
  by_cases hd : destRace s a = some idx
  · obtain ⟨ha, -, hl⟩ := (h.destRace_eq_some (List.ne_nil_of_mem hi)).1 hd
    have hnone : destRace (finishIfDone (storeSample idx s)) a = none := by
      rw [Option.eq_none_iff_forall_ne_some]
      intro j hj
      obtain ⟨hj, hji⟩ := (h.destRace_sample hi).1 hj
      exact hji (Option.some_inj.1 (hj.symm.trans hd))
    rw [eventual_of_noRace hnone, eventual_of_race hd, hcell, if_pos ⟨ha, hl⟩, h.sampleOutput_eq hk]
  · have hkept : ¬ (a = destAddress s idx ∧ s.ahead.lookup idx ≠ some .written) := fun ⟨ha, hl⟩ =>
      hd ((h.destRace_eq_some (List.ne_nil_of_mem hi)).2 ⟨ha, hi, hl⟩)
    have hrace : destRace (finishIfDone (storeSample idx s)) a = destRace s a := by
      refine Option.ext fun j => ?_
      rw [h.destRace_sample hi, and_iff_left_iff_imp]
      rintro hj rfl
      exact hd hj
    refine eventual_congr hrace (hcell.trans (if_neg hkept)) fun j hj => ?_
    obtain ⟨-, hmem, -⟩ := (h.destRace_eq_some (List.ne_nil_of_mem hi)).1 hj
    have hji : j ≠ idx := by
      rintro rfl
      exact hd hj
    obtain ⟨h0, -⟩ | ⟨-, e⟩ := finishIfDone_cases (storeSample idx s)
    · exact absurd h0 (List.ne_nil_of_mem (mem_todo_storeSample.2 ⟨hmem, hji⟩))
    · rw [e, h.sourceByte_storeSample hi hmem hji]
      rfl

theorem PassRunning.moves_sample {s : State} (h : PassRunning s) (hk : s.kReg = s.order) {idx : Nat}
    (hi : idx ∈ s.todo) : PassMoves s (finishIfDone (storeSample idx s)) where
  frame := by
    obtain ⟨-, e⟩ | ⟨-, e⟩ := finishIfDone_cases (storeSample idx s) <;> rw [e] <;> rfl
  status := by
    rw [finishIfDone_status]
    split
    · exact .inr rfl
    · exact .inl rfl
  ahead := by
    rw [finishIfDone_ahead]
    split
    · exact List.nil_sublist _
    · exact List.filter_sublist
  wf := fun hm => by
    rw [finishIfDone_mem, storeSample_mem, sampledMemory]
    split
    · exact hm
    · exact Memory.writeByte_wf hm ..
    · exact Memory.writeByte_wf hm ..
  eventual := h.eventual_sample hk hi
  pending := fun a j hj => by
    obtain ⟨hd, hji⟩ := (h.destRace_sample hi).1 hj
    obtain ⟨ha, -⟩ := (h.destRace_eq_some (List.ne_nil_of_mem hi)).1 hd
    refine ⟨hd, ?_⟩
    rw [finishIfDone_mem, storeSample_mem, cell_sampledMemory,
      if_neg fun h0 => hji (destAddress_inj.1 (ha.symm.trans h0.1))]

/-- A sample step leaves one step fewer. -/
theorem PassRunning.left_sample {s : State} {n idx : Nat} (h : PassRunning s) (hk : s.kReg = s.order)
    (hi : idx ∈ s.todo) (hlen : s.todo.length = n + 1) : PassLeft (finishIfDone (storeSample idx s)) n := by
  have hlen' := h.length_todo_storeSample hi
  obtain ⟨h0, e⟩ | ⟨hne, e⟩ := finishIfDone_cases (storeSample idx s) <;> rw [e]
  · obtain rfl : n = 0 := by
      rw [h0] at hlen'
      exact Nat.succ.inj (hlen.symm.trans hlen'.symm)
    have ho : s.order = BitVec.ofNat 5 (findMSB s.width) := by rw [← h.order, BitVec.ofNat_toNat, BitVec.setWidth_eq]
    exact .ended rfl rfl rfl rfl ho (hk.trans ho)
  · obtain ⟨m, hm⟩ := Nat.exists_eq_add_one.2 (List.length_pos_iff.2 hne)
    obtain rfl : n = m + 1 := by omega
    exact .running (h.storeSample idx) hk hm

/-! ## The core's turns -/

/-- One core step of a PASS that has steps left. -/
theorem PassLeft.coreStep {s : State} {n : Nat} (h : PassLeft s (n + 1)) :
    ∃ t, coreStep s = .next t ∧ t.schedule = s.schedule ∧ PassLeft t n ∧ PassMoves s t := by
  cases h with
  | accepted hb hp hc ht =>
    refine ⟨passStart s, coreStep_passStart hb hp ht hc, rfl, ?_, passMoves_passStart ht⟩
    obtain ⟨m, hm⟩ := Nat.exists_eq_add_one.2 (passSamples_pos hc)
    rw [hm]
    exact .running (passRunning_passStart hb hp hc) rfl (by simp [hm])
  | running hr hk hlen =>
    obtain ⟨idx, hi, hs⟩ := hr.coreStep (by rintro h0; simp [h0] at hlen)
    exact ⟨_, hs, by simp, hr.left_sample hk hi hlen, hr.moves_sample hk hi⟩

/-- Where the next turns are the core's or the schedule has none left, this one is the core's and so are those after
it (log entry 4). -/
theorem nextTurn_core {s : State} {m : Nat} (h : ∀ turn ∈ s.schedule.take (m + 1), turn = .core) :
    (nextTurn s).1 = .core ∧ ∀ turn ∈ s.schedule.tail.take m, turn = .core := by
  unfold nextTurn
  cases hs : s.schedule with
  | nil => simp
  | cons turn rest =>
    rw [hs] at h
    exact ⟨h turn List.mem_cons_self, fun other ho => h other (List.mem_cons_of_mem _ ho)⟩

/-- As many core turns as a PASS has steps left, or fewer. -/
theorem PassLeft.run {s : State} {m n : Nat} (h : PassLeft s (n + m))
    (hs : ∀ turn ∈ s.schedule.take m, turn = .core) :
    ∃ t, run m s = .next t ∧ t.schedule = s.schedule.drop m ∧ PassLeft t n ∧ PassMoves s t := by
  induction m generalizing s with
  | zero => exact ⟨s, rfl, rfl, h, .refl s⟩
  | succ m ih =>
    obtain ⟨hturn, hs⟩ := nextTurn_core hs
    obtain ⟨u, hu, hsched, hleft, hmoves⟩ :=
      (PassLeft.update h rfl s.mem s.schedule.tail s.picks s.draws s.replies s.ahead).coreStep
    have hstep : step s = .next u := by rw [step, hturn, takeTurn, nextTurn_snd, ← hu]
    obtain ⟨t, ht, htsched, htleft, htmoves⟩ := ih hleft (hsched ▸ hs)
    refine ⟨t, (run_succ_of_next hstep m).trans ht, ?_, htleft, (PassMoves.schedule s _).trans (hmoves.trans htmoves)⟩
    rw [htsched, hsched, List.drop_tail]

/-- Once a PASS has ended, what is held at an address is what was to end there. -/
theorem PassLeft.cell_eq_eventual {s t : State} (h : PassLeft t 0) (hm : PassMoves s t) (a : Nat) :
    t.mem.cell a = s.eventual a := by
  cases h with
  | ended hb => rw [← hm.eventual, eventual_of_noRace (destRace_eq_none (.inl hb))]

protected theorem PassLeft.of_accepted {s : State} (h : passAccepted s) (hc : passError s = none) :
    PassLeft s (passSamples s + 1) := by
  obtain ⟨hb, hp, ht, -⟩ := h
  exact .accepted hb hp hc ht

/-! ## The order of the samples -/

/-- The end of a PASS in which only the core moves, from its accepted state (43_pass.md R99, R104). -/
theorem passAccepted.run_eq {s t : State} (h : passAccepted s) (hc : passError s = none) (hs : s.schedule = [])
    (hrun : run (1 + passSamples s) s = .next t) :
    t = { s with
      status := s.status.finished, todo := [], mem := t.mem, ahead := [], picks := t.picks, draws := t.draws
      order := BitVec.ofNat 5 (findMSB s.width), kReg := BitVec.ofNat 5 (findMSB s.width) } ∧
    (s.mem.wf → t.mem.wf) ∧ ∀ a, t.mem.cell a = s.eventual a := by
  have hstart : PassLeft s (0 + (1 + passSamples s)) := by
    rw [Nat.zero_add, Nat.add_comm]
    exact .of_accepted h hc
  obtain ⟨t', ht, hsched, hleft, hmoves⟩ := hstart.run (by simp [hs])
  obtain rfl : t' = t := by simpa using ht.symm.trans hrun
  refine ⟨?_, hmoves.wf, hleft.cell_eq_eventual hmoves⟩
  cases hleft with
  | ended hb _ htodo hahead ho hk =>
    have hstatus : t'.status = s.status.finished := hmoves.status.resolve_left fun he => by simp [he, h.1] at hb
    have hframe := hmoves.frame
    have hwidth : t'.width = s.width := by rw [hframe]
    have hnil : t'.schedule = s.schedule := by simp [hsched, hs]
    rw [hwidth] at ho hk
    rwa [hstatus, htodo, hahead, ho, hk, hnil] at hframe

/-- Settles O42: every byte ends as `State.eventual` of the accepted state says, which the choices play no part in. -/
theorem passOrderIsUnobservable : Obligations.PassOrderIsUnobservable := by
  unfold Obligations.PassOrderIsUnobservable
  intro s t u p q d e h hc hs hwf ht hu
  obtain ⟨hteq, htwf, hcell⟩ := passAccepted.run_eq (s := { s with picks := p, draws := d }) h hc hs ht
  obtain ⟨hueq, huwf, hcell'⟩ := passAccepted.run_eq (s := { s with picks := q, draws := e }) h hc hs hu
  have hmem : t.mem = u.mem :=
    Memory.ext_cell (htwf hwf) (huwf hwf) fun a => (hcell a).trans (hcell' a).symm
  rw [hteq, hueq, hmem]

end Sys2Proof.Machine
end

section
/-! One host access to a buffer byte of a running PASS, with only the core moving before and after it: the byte ends
either way (spec 20_memory.md R54). -/

namespace Sys2Proof.Machine

/-! ## What is kept between two states of a PASS -/

theorem PassMoves.outputFor_eq {s t : State} (h : PassMoves s t) (idx : Nat) (b : Byte) :
    outputFor t idx b = outputFor s idx b := by
  rw [h.frame]
  rfl

theorem PassMoves.destAddress_eq {s t : State} (h : PassMoves s t) (idx : Nat) :
    destAddress t idx = destAddress s idx := by
  rw [h.frame]
  rfl

theorem PassMoves.sourceAddress_eq {s t : State} (h : PassMoves s t) (idx : Nat) :
    sourceAddress t idx = sourceAddress s idx := by
  rw [h.frame]
  rfl

theorem PassMoves.passSamples_eq {s t : State} (h : PassMoves s t) : passSamples t = passSamples s := by
  rw [h.frame]
  rfl

theorem PassMoves.replies_eq {s t : State} (h : PassMoves s t) : t.replies = s.replies := by
  rw [h.frame]

theorem PassMoves.memBytes_eq {s t : State} (h : PassMoves s t) : t.memBytes = s.memBytes := by
  rw [h.frame]
  rfl

theorem PassMoves.ahead_eq_nil {s t : State} (h : PassMoves s t) (hs : s.ahead = []) : t.ahead = [] :=
  List.sublist_nil.1 (hs ▸ h.ahead)

theorem byteAt_of_cell {s : State} {a : Nat} {b : Byte} (h : s.mem.cell a = some b) : s.byteAt a = b := by
  rw [State.byteAt, Memory.readByte, h, Option.getD_some]

/-- Once a PASS has ended, a byte is what it was to end as. -/
theorem PassLeft.byteAt_of_eventual {s t : State} (h : PassLeft t 0) (hm : PassMoves s t) {a : Nat} {b : Byte}
    (he : s.eventual a = some b) : t.byteAt a = b :=
  byteAt_of_cell ((h.cell_eq_eventual hm a).trans he)

/-! ## A host access while no race has put an access of the core first -/

/-- The index is still to be processed, and the draw of a host access leaves the core's access to come after the host's
(20_memory.md R54). -/
def State.hostFirst (s : State) (idx : Nat) : Bool := s.unprocessed idx && s.pick % 2 != 1

theorem State.hostFirst_iff {s : State} {idx : Nat} :
    s.hostFirst idx = true ↔ s.unprocessed idx = true ∧ s.pick % 2 ≠ 1 := by
  simp [State.hostFirst]

theorem sourceByte_of_no_record {s : State} {idx : Nat} (h : s.ahead.lookup idx = none) :
    sourceByte s idx = s.byteAt (sourceAddress s idx) := by
  rw [sourceByte, h]

theorem destRace_of_unprocessed {s : State} {idx : Nat} (hr : s.passRuns = true) (hu : s.unprocessed idx = true)
    (hl : s.ahead.lookup idx ≠ some .written) : destRace s (destAddress s idx) = some idx :=
  destRace_eq_some.2 ⟨hr, rfl, hu, hl⟩

theorem sourceRace_of_unprocessed {s : State} {idx : Nat} (hr : s.passRuns = true) (hu : s.unprocessed idx = true)
    (hl : s.ahead.lookup idx = none) : sourceRace s (sourceAddress s idx) = some idx :=
  sourceRace_eq_some.2 ⟨hr, rfl, hu, hl⟩

/-- The core has no write left to a destination byte it has processed, or written ahead. -/
theorem destRace_of_done {s : State} {idx : Nat} (h : s.unprocessed idx = false ∨ s.ahead.lookup idx = some .written) :
    destRace s (destAddress s idx) = none := by
  rw [Option.eq_none_iff_forall_ne_some]
  intro j hj
  obtain ⟨-, ha, hu, hl⟩ := destRace_eq_some.1 hj
  obtain rfl := destAddress_inj.1 ha
  simp [hu, hl] at h

theorem sourceRace_of_done {s : State} {idx : Nat} (h : s.unprocessed idx = false) :
    sourceRace s (sourceAddress s idx) = none := by
  rw [Option.eq_none_iff_forall_ne_some]
  intro j hj
  obtain ⟨-, ha, hu, -⟩ := sourceRace_eq_some.1 hj
  obtain rfl : idx = j := Nat.add_left_cancel ha
  simp [hu] at h

/-- No race at a source byte is one of a destination byte (43_pass.md R97). -/
theorem destRace_sourceAddress {s : State} {idx : Nat} (hc : passError s = none) (hi : idx < passSamples s) :
    destRace s (sourceAddress s idx) = none := by
  rw [Option.eq_none_iff_forall_ne_some]
  intro j hj
  obtain ⟨-, ha, hu, -⟩ := destRace_eq_some.1 hj
  exact sourceAddress_ne_destAddress hc (State.unprocessed_iff.1 hu).1 hi ha

/-- No race at a destination byte is one of a source byte (R97). -/
theorem sourceRace_destAddress {s : State} {idx : Nat} (hc : passError s = none) (hi : idx < passSamples s) :
    sourceRace s (destAddress s idx) = none := by
  rw [Option.eq_none_iff_forall_ne_some]
  intro j hj
  obtain ⟨-, ha, hu, -⟩ := sourceRace_eq_some.1 hj
  exact sourceAddress_ne_destAddress hc hi (State.unprocessed_iff.1 hu).1 ha.symm

/-- A source byte written before the core reads it is what the output follows from (R54, SRCR). -/
theorem eventual_storeByte_source {s : State} {idx : Nat} (hd : destRace s (destAddress s idx) = some idx)
    (hl : s.ahead.lookup idx = none) (v : Byte) :
    (s.storeByte (sourceAddress s idx) v).eventual (destAddress s idx) = some (outputFor s idx v) := by
  have hbyte : sourceByte (s.storeByte (sourceAddress s idx) v) idx = v :=
    (sourceByte_of_no_record (s := s.storeByte _ v) hl).trans ((State.byteAt_storeByte ..).trans (if_pos rfl))
  rw [eventual_of_race (s := s.storeByte (sourceAddress s idx) v) hd, hbyte]
  rfl

/-- A source byte the core has read first is what the output follows from, whatever is stored after (R54, SRCR). -/
theorem eventual_readAhead_storeByte {s : State} {idx : Nat} (hd : destRace s (destAddress s idx) = some idx)
    (hl : s.ahead.lookup idx = none) (a : Nat) (v : Byte) :
    ((readAhead idx s).storeByte a v).eventual (destAddress s idx) = s.eventual (destAddress s idx) := by
  obtain ⟨hr, -, hu, -⟩ := destRace_eq_some.1 hd
  have hread : ((readAhead idx s).storeByte a v).ahead.lookup idx = some (.read (s.byteAt (sourceAddress s idx))) :=
    List.lookup_cons_self
  have hbyte : sourceByte ((readAhead idx s).storeByte a v) idx = sourceByte s idx := by
    rw [sourceByte_of_no_record hl, sourceByte, hread]
  have hd' : destRace ((readAhead idx s).storeByte a v) (destAddress s idx) = some idx :=
    destRace_of_unprocessed (s := (readAhead idx s).storeByte a v) hr hu (by rw [hread]; simp)
  rw [eventual_of_race hd', eventual_of_race hd, hbyte]
  rfl

/-- The output of an index follows from the value the host wrote to its source byte where the host comes first, and
from what it would have followed from where the core does (R54, SRCR). -/
theorem eventual_hostStore_source {s : State} {idx : Nat} (hr : s.passRuns = true) (ha : s.ahead = [])
    (hi : idx < passSamples s) (v : Byte) :
    (hostStore (sourceAddress s idx) v s).eventual (destAddress s idx) =
      if s.hostFirst idx then some (outputFor s idx v) else s.eventual (destAddress s idx) := by
  have hc := (State.passRuns_iff.1 hr).2.2
  cases hu : s.unprocessed idx with
  | true =>
    have hl : s.ahead.lookup idx = none := by simp [ha]
    have hd := destRace_of_unprocessed hr hu (by simp [hl])
    rw [hostStore, raceOnWrite, sourceRace_of_unprocessed hr hu hl, State.hostFirst, hu]
    obtain ⟨hp, e⟩ | ⟨hp, e⟩ := drawRace_cases (readAhead idx) s <;> simp only [e]
    · rw [if_neg (by simp [hp])]
      exact eventual_readAhead_storeByte (s := s.usePick) hd hl _ v
    · rw [if_pos (by simpa using hp)]
      exact eventual_storeByte_source (s := s.usePick) hd hl v
  | false =>
    have hdst := destRace_of_done (.inl hu)
    rw [hostStore_of_noRace v (sourceRace_of_done hu) (destRace_sourceAddress hc hi), State.hostFirst, hu,
      eventual_of_noRace hdst, eventual_of_noRace (s := s.storeByte (sourceAddress s idx) v) hdst,
      State.storeByte_mem, Memory.cell_writeByte, if_neg (sourceAddress_ne_destAddress hc hi hi).symm]
    rfl

/-- A source byte the host writes ends as written: the core writes none (43_pass.md R102). -/
theorem eventual_hostStore_source_self {s : State} {idx : Nat} (hc : passError s = none) (hi : idx < passSamples s)
    (v : Byte) : (hostStore (sourceAddress s idx) v s).eventual (sourceAddress s idx) = some v := by
  have hnone : destRace (hostStore (sourceAddress s idx) v s) (sourceAddress s idx) = none := by
    obtain ⟨m, ah, p, d, e⟩ := hostStore_frame (sourceAddress s idx) v s
    rw [e]
    exact destRace_sourceAddress (s := { s with mem := m, ahead := ah, picks := p, draws := d }) hc hi
  rw [eventual_of_noRace hnone]
  exact (Memory.cell_writeByte ..).trans (if_pos rfl)

/-- A destination byte the host reads ends as it would have (R54, DSTR). -/
theorem eventual_hostLoad (a : Nat) (s : State) : (hostLoad a s).eventual a = s.eventual a := by
  have hreply : (hostLoad a s).eventual a = (raceOnDest a s).eventual a := rfl
  rw [hreply]
  obtain ⟨-, e⟩ | ⟨idx, hd, ⟨-, e⟩ | ⟨-, e⟩⟩ := raceOnDest_cases a s <;> rw [e]
  · obtain ⟨hr, rfl, -⟩ := destRace_eq_some.1 hd
    have hdone : destRace (writeAhead idx s.usePick) (destAddress s idx) = none :=
      destRace_of_done (s := writeAhead idx s.usePick) (.inr List.lookup_cons_self)
    have hcell : (writeAhead idx s.usePick).mem.cell (destAddress s idx) = some (aheadOutput s idx) :=
      (Memory.cell_writeByte ..).trans (if_pos rfl)
    rw [eventual_of_noRace hdone, eventual_of_race hd, hcell, aheadOutput_eq (State.passRuns_iff.1 hr).2.2]
  · rfl

/-- A destination byte the host reads is the byte as it was where the host comes first, and the final one where the
core does (R54, DSTR). -/
theorem byteAt_raceOnDest_destAddress {s : State} {idx : Nat} {b : Byte} (hr : s.passRuns = true)
    (ha : s.ahead = []) (hb : s.eventual (destAddress s idx) = some b) :
    (raceOnDest (destAddress s idx) s).byteAt (destAddress s idx) =
      if s.hostFirst idx then s.byteAt (destAddress s idx) else b := by
  cases hu : s.unprocessed idx with
  | true =>
    have hd := destRace_of_unprocessed hr hu (by simp [ha])
    rw [raceOnDest, hd, State.hostFirst, hu]
    obtain ⟨hp, e⟩ | ⟨hp, e⟩ := drawRace_cases (writeAhead idx) s <;> simp only [e]
    · rw [if_neg (by simp [hp])]
      refine (byteAt_writeAhead idx s.usePick _).trans ((if_pos rfl).trans ?_)
      rw [eventual_of_race hd] at hb
      exact (aheadOutput_eq (s := s) (State.passRuns_iff.1 hr).2.2 idx).trans (Option.some_inj.1 hb)
    · rw [if_pos (by simpa using hp)]
      rfl
  | false =>
    have hd := destRace_of_done (.inl hu)
    rw [eventual_of_noRace hd] at hb
    rw [raceOnDest, hd, State.hostFirst, hu]
    exact byteAt_of_cell hb

/-- A destination byte the host writes ends as the core's value where the host comes first, and as the host's where the
core does (R54, DSTR). -/
theorem eventual_hostStore_dest {s : State} {idx : Nat} (hr : s.passRuns = true) (ha : s.ahead = [])
    (hi : idx < passSamples s) (v : Byte) :
    (hostStore (destAddress s idx) v s).eventual (destAddress s idx) =
      if s.hostFirst idx then s.eventual (destAddress s idx) else some v := by
  have hc := (State.passRuns_iff.1 hr).2.2
  have hstored : ∀ m : Memory, (m.writeByte (destAddress s idx) v).cell (destAddress s idx) = some v := fun m =>
    (Memory.cell_writeByte ..).trans (if_pos rfl)
  cases hu : s.unprocessed idx with
  | true =>
    have hd := destRace_of_unprocessed hr hu (by simp [ha])
    rw [hostStore, raceOnWrite, sourceRace_destAddress hc hi]
    simp only [raceOnDest, hd]
    rw [State.hostFirst, hu]
    obtain ⟨hp, e⟩ | ⟨hp, e⟩ := drawRace_cases (writeAhead idx) s <;> simp only [e]
    · rw [if_neg (by simp [hp])]
      refine (eventual_of_noRace ?_).trans (hstored _)
      exact destRace_of_done (s := (writeAhead idx s.usePick).storeByte (destAddress s idx) v)
        (.inr List.lookup_cons_self)
    · rw [if_pos (by simpa using hp)]
      have hbyte : sourceByte (s.usePick.storeByte (destAddress s idx) v) idx = sourceByte s idx :=
        sourceByte_congr rfl
          ((State.byteAt_storeByte ..).trans (if_neg (sourceAddress_ne_destAddress hc hi hi)))
      rw [eventual_of_race (s := s.usePick.storeByte (destAddress s idx) v) hd, eventual_of_race hd, hbyte]
      rfl
  | false =>
    have hd := destRace_of_done (.inl hu)
    rw [hostStore_of_noRace v (sourceRace_destAddress hc hi) hd, State.hostFirst, hu,
      eventual_of_noRace (s := s.storeByte (destAddress s idx) v) hd]
    exact hstored _

/-! ## A PASS with one host access -/

/-- The PASS of an accepted state with one host access after n of the core's steps, and the choices p. -/
def racedPass (s : State) (n : Nat) (access : HostAction) (p : List Nat) : State :=
  { s with picks := p, schedule := List.replicate n .core ++ [.host access] }

/-- A run of such a PASS to its end: the core's steps lead to v, the host's access from v to w, and the core's remaining
steps from w to t. -/
structure RacedRun (s : State) (n : Nat) (access : HostAction) (p : List Nat) (v w t : State) : Prop where
  before : PassMoves (racedPass s n access p) v
  runs : v.passRuns = true
  host : hostStep access v = .next w
  after : PassMoves w t
  ended : PassLeft t 0
  run : run (passSamples s + 2) (racedPass s n access p) = .next t

/-- No host action takes a turn. -/
theorem hostStep_schedule {a : HostAction} {s t : State} (h : hostStep a s = .next t) : t.schedule = s.schedule := by
  obtain ⟨w, off, -, rfl⟩ | ⟨w, off, v, -, rfl⟩ | ⟨addr, -, -, rfl⟩ | ⟨addr, v, -, -, rfl⟩ | ⟨-, rfl⟩ :=
    hostStep_next h
  · rfl
  · exact busWrite_schedule w off v s
  · obtain ⟨m, ah, p, d, b, e⟩ := hostLoad_frame addr s
    rw [e]
  · obtain ⟨m, ah, p, d, e⟩ := hostStore_frame addr v s
    rw [e]
  · rfl

/-- From the state at the host's turn the access answers, and the core's remaining steps end the PASS. -/
theorem RacedRun.of_before {s u : State} {n : Nat} {access : HostAction} {p : List Nat} (hn : n ≤ passSamples s)
    (ha : access ≠ .reset) (hm : (Turn.host access).inMemory s)
    (hrun : Machine.run n (racedPass s n access p) = .next u) (hmoves : PassMoves (racedPass s n access p) u)
    (hleft : PassLeft u (passSamples s - n + 1)) (hsched : u.schedule = [.host access]) :
    ∃ w t, RacedRun s n access p { u with schedule := [] } w t := by
  have hmem : u.memBytes = s.memBytes := hmoves.memBytes_eq
  have hleft : PassLeft { u with schedule := [] } (passSamples s - n + 1) := hleft.update rfl ..
  obtain ⟨w, hw⟩ := hostStep_answers (a := access) (s := { u with schedule := [] }) <| by
    cases access with
    | memRead a => exact hm.trans_eq hmem.symm
    | memWrite a v => exact hm.trans_eq hmem.symm
    | _ => trivial
  have hwsched : w.schedule = [] := hostStep_schedule hw
  have hwleft : PassLeft w (0 + (passSamples s - n + 1)) := by
    rw [Nat.zero_add]
    exact hleft.hostStep ha hw
  obtain ⟨t, ht, -, htleft, htmoves⟩ := hwleft.run (by simp [hwsched])
  refine ⟨w, t, hmoves.trans (.schedule u []), hleft.passRuns, hw, htmoves, htleft, ?_⟩
  have hsteps : passSamples s + 2 = n + (passSamples s - n + 1 + 1) := by omega
  rw [hsteps, run_add hrun, run_succ_of_next ((step_of_cons hsched).trans hw), ht]

/-- The accepted PASS of the run has all its steps left. -/
theorem passAccepted.left_racedPass {s : State} (h : passAccepted s) (hc : passError s = none) {n : Nat}
    (hn : n ≤ passSamples s) (access : HostAction) (p : List Nat) :
    PassLeft (racedPass s n access p) (passSamples s - n + 1 + n) := by
  have hleft : PassLeft (racedPass s n access p) (passSamples s + 1) := .of_accepted (s := racedPass s n access p) h hc
  rwa [show passSamples s - n + 1 + n = passSamples s + 1 by omega]

/-- Whatever the choices, the run reaches its end. -/
theorem passAccepted.exists_racedRun {s : State} (h : passAccepted s) (hc : passError s = none) {n : Nat}
    (hn : n ≤ passSamples s) {access : HostAction} (ha : access ≠ .reset) (hm : (Turn.host access).inMemory s)
    (p : List Nat) : ∃ v w t, RacedRun s n access p v w t := by
  obtain ⟨u, hu, hsched, hleft, hmoves⟩ := (h.left_racedPass hc hn access p).run (by simp [racedPass])
  exact ⟨_, RacedRun.of_before hn ha hm hu hmoves hleft (by simpa [racedPass] using hsched)⟩

/-! ## Choices that leave an index unprocessed -/

/-- A sample step processes the index chosen (43_pass.md R98). -/
theorem PassRunning.coreStep_of_chosen {s : State} (h : PassRunning s) {idx : Nat} (hi : s.chosenIndex = some idx) :
    Machine.coreStep s = .next (finishIfDone (storeSample idx s)) := by
  have hmem := State.chosenIndex_mem hi
  obtain ⟨hsrc, hdst⟩ := addresses_of_unprocessed h.checked (h.below idx hmem)
  rw [coreStep_of_ok h.busy (decode_eq_pass_iff.2 h.pend), exec, execPass, hi]
  exact sampleStep_eq hsrc hdst

/-- Where two or more indices are left, there is a choice of another one than a given one (R99). -/
theorem PassRunning.exists_pick_ne {s : State} (h : PassRunning s) {idx : Nat} (hlen : 1 < s.todo.length) :
    ∃ j i, s.todo[j % s.todo.length]? = some i ∧ i ≠ idx := by
  have hnd : s.todo.Nodup := h.rising.imp Nat.ne_of_lt
  have hne : s.todo ≠ [idx] := by
    intro h1
    simp [h1] at hlen
  obtain h0 | ⟨i, hi, hii⟩ := (hnd.ne_singleton_iff idx).1 hne
  · simp [h0] at hlen
  · obtain ⟨j, hj, hget⟩ := List.getElem_of_mem hi
    exact ⟨j, i, by rw [Nat.mod_eq_of_lt hj, List.getElem?_eq_getElem hj, hget], hii⟩

/-- There are choices with which the next sample steps all pass an index by (R99). -/
theorem PassRunning.exists_picks_sparing {s : State} {idx m : Nat} (h : PassRunning s) (hi : idx ∈ s.todo)
    (hm : m < s.todo.length) (hs : ∀ turn ∈ s.schedule.take m, turn = .core) (q : List Nat) :
    ∃ p u, run m { s with picks := p } = .next u ∧ idx ∈ u.todo ∧ u.picks = q := by
  induction m generalizing s with
  | zero => exact ⟨q, _, rfl, hi, rfl⟩
  | succ m ih =>
    obtain ⟨j, i, hj, hii⟩ := h.exists_pick_ne (idx := idx) (by omega)
    have hleft : idx ∈ (storeSample i s).todo := mem_todo_storeSample.2 ⟨hi, hii.symm⟩
    have hlen : m < (storeSample i s).todo.length := by
      have := h.length_todo_storeSample (List.mem_of_getElem? hj)
      omega
    obtain ⟨p, u, hu, hidx, hq⟩ := ih (s := { storeSample i s with schedule := s.schedule.tail })
      { h.storeSample i with } hleft hlen (nextTurn_core hs).2
    refine ⟨j :: p, u, (run_succ_of_next ?_ m).trans hu, hidx, hq⟩
    have hturn : (nextTurn { s with picks := j :: p }).1 = .core :=
      (nextTurn_core (s := { s with picks := j :: p }) hs).1
    have hrunning : PassRunning { s with picks := j :: p, schedule := s.schedule.tail } := { h with }
    rw [step, hturn, takeTurn, nextTurn_snd, hrunning.coreStep_of_chosen (idx := i) hj]
    exact congrArg Host.Outcome.next (if_neg (List.ne_nil_of_mem hleft))

theorem passAccepted.step_racedPass {s : State} (h : passAccepted s) (hc : passError s = none) (n : Nat)
    (access : HostAction) (p : List Nat) :
    step (racedPass s (n + 1) access p) = .next (passStart (racedPass s n access p)) := by
  obtain ⟨hb, hp, ht, -⟩ := h
  have hturn : (racedPass s (n + 1) access p).schedule = .core :: (racedPass s n access p).schedule := rfl
  rw [step_of_cons hturn]
  exact coreStep_passStart (s := racedPass s n access p) hb hp ht hc

/-- There are choices with which the core's steps before the host's access pass an index by and leave any choice for its
draw (R99). -/
theorem passAccepted.exists_picks_sparing {s : State} (h : passAccepted s) (hc : passError s = none) {idx n : Nat}
    (hi : idx < passSamples s) (hn : n ≤ passSamples s) (access : HostAction) (d : Nat) :
    ∃ p u, run n (racedPass s n access p) = .next u ∧ (u.todo = [] ∨ idx ∈ u.todo) ∧ u.picks = [d] := by
  cases n with
  | zero => exact ⟨[d], _, rfl, .inl h.2.2.1, rfl⟩
  | succ m =>
    have hstart : PassRunning (passStart (racedPass s m access [])) := passRunning_passStart h.1 h.2.1 hc
    obtain ⟨p, u, hu, hidx, hd⟩ := hstart.exists_picks_sparing (idx := idx) (m := m) (List.mem_range.2 hi)
      ((Nat.lt_of_succ_le hn).trans_eq List.length_range.symm) (by simp [racedPass]) [d]
    exact ⟨p, u, (run_succ_of_next (h.step_racedPass hc m access p) m).trans hu, .inr hidx, hd⟩

/-- There are choices with which the host's access finds an index unprocessed, and any choice for its draw. -/
theorem passAccepted.exists_racedRun_drawn {s : State} (h : passAccepted s) (hc : passError s = none) {idx n : Nat}
    (hi : idx < passSamples s) (hn : n ≤ passSamples s) {access : HostAction} (ha : access ≠ .reset)
    (hm : (Turn.host access).inMemory s) (d : Nat) :
    ∃ p v w t, RacedRun s n access p v w t ∧ v.unprocessed idx = true ∧ v.pick = d := by
  obtain ⟨p, u, hu, htodo, hd⟩ := h.exists_picks_sparing hc hi hn access d
  obtain ⟨u', hu', hsched, hleft, hmoves⟩ := (h.left_racedPass hc hn access p).run (by simp [racedPass])
  obtain rfl : u' = u := by simpa using hu'.symm.trans hu
  obtain ⟨w, t, hrun⟩ := RacedRun.of_before hn ha hm hu hmoves hleft (by simpa [racedPass] using hsched)
  refine ⟨p, _, w, t, hrun, State.unprocessed_iff.2 ⟨?_, htodo⟩, by simp [State.pick, hd]⟩
  exact hi.trans_eq hrun.before.passSamples_eq.symm

/-- Whatever the number of core steps before it, the host's access may come before the core's access to a buffer byte,
and it may come after (20_memory.md R54). -/
theorem passAccepted.exists_hostFirst {s : State} (h : passAccepted s) (hc : passError s = none) {idx n : Nat}
    (hi : idx < passSamples s) (hn : n ≤ passSamples s) {access : HostAction} (ha : access ≠ .reset)
    (hm : (Turn.host access).inMemory s) (b : Bool) :
    ∃ p v w t, RacedRun s n access p v w t ∧ v.hostFirst idx = b := by
  obtain ⟨p, v, w, t, hrun, hu, hd⟩ := h.exists_racedRun_drawn hc hi hn ha hm (if b then 0 else 1)
  exact ⟨p, v, w, t, hrun, by cases b <;> simp [State.hostFirst, hu, hd]⟩

/-! ## The three races -/

/-- In an accepted PASS every destination byte ends as the output of the current source byte (R104). -/
theorem passAccepted.eventual_dest {s : State} (h : passAccepted s) (hc : passError s = none) {idx : Nat}
    (hi : idx < passSamples s) :
    s.eventual (destAddress s idx) = some (outputFor s idx (s.byteAt (sourceAddress s idx))) := by
  obtain ⟨hb, hp, ht, ha⟩ := h
  have hl : s.ahead.lookup idx = none := by simp [ha]
  have hd := destRace_of_unprocessed (State.passRuns_iff.2 ⟨hb, hp, hc⟩) (State.unprocessed_iff.2 ⟨hi, .inl ht⟩)
    (idx := idx) (by simp [hl])
  rw [eventual_of_race hd, sourceByte_of_no_record hl]

section
variable {s v w t : State} {idx n : Nat} {access : HostAction} {p : List Nat} {b : Byte}

theorem RacedRun.ahead_eq_nil (hr : RacedRun s n access p v w t) (h : passAccepted s) : v.ahead = [] :=
  hr.before.ahead_eq_nil h.2.2.2

theorem RacedRun.sourceAddress_eq (hr : RacedRun s n access p v w t) (idx : Nat) :
    sourceAddress v idx = sourceAddress s idx :=
  hr.before.sourceAddress_eq idx

theorem RacedRun.destAddress_eq (hr : RacedRun s n access p v w t) (idx : Nat) :
    destAddress v idx = destAddress s idx :=
  hr.before.destAddress_eq idx

theorem RacedRun.lt_passSamples (hr : RacedRun s n access p v w t) (hi : idx < passSamples s) :
    idx < passSamples v :=
  hi.trans_eq hr.before.passSamples_eq.symm

/-- At the host's turn a destination byte still ends as its output. -/
theorem RacedRun.eventual_dest (hr : RacedRun s n access p v w t) (h : passAccepted s) (hc : passError s = none)
    (hi : idx < passSamples s) :
    v.eventual (destAddress v idx) = some (outputFor s idx (s.byteAt (sourceAddress s idx))) := by
  rw [hr.destAddress_eq]
  exact (hr.before.eventual _).trans (passAccepted.eventual_dest (s := racedPass s n access p) h hc hi)

/-- At the host's turn the destination byte of an unprocessed index is as it was before the PASS. -/
theorem RacedRun.byteAt_dest (hr : RacedRun s n access p v w t) (h : passAccepted s)
    (hu : v.unprocessed idx = true) : v.byteAt (destAddress v idx) = s.byteAt (destAddress v idx) := by
  have hd := destRace_of_unprocessed hr.runs hu (by simp [hr.ahead_eq_nil h])
  obtain ⟨-, hcell⟩ := hr.before.pending _ idx hd
  rw [State.byteAt, Memory.readByte, hcell]
  rfl

/-- A raced write of a source byte leaves the byte written, and the output follows from the written value or from the
old one (R54, SRCR). -/
theorem RacedRun.sourceWrite (hr : RacedRun s n (.memWrite (sourceAddress s idx) b) p v w t) (h : passAccepted s)
    (hc : passError s = none) (hi : idx < passSamples s) :
    t.byteAt (sourceAddress s idx) = b ∧
      t.byteAt (destAddress s idx) =
        outputFor s idx (if v.hostFirst idx then b else s.byteAt (sourceAddress s idx)) := by
  obtain ⟨-, rfl⟩ := hostStep_memWrite_eq_next.1 hr.host
  have hdest := eventual_hostStore_source hr.runs (hr.ahead_eq_nil h) (hr.lt_passSamples hi) b
  have hsource := eventual_hostStore_source_self (State.passRuns_iff.1 hr.runs).2.2 (hr.lt_passSamples hi) b
  rw [hr.eventual_dest h hc hi, hr.before.outputFor_eq, hr.sourceAddress_eq, hr.destAddress_eq] at hdest
  rw [hr.sourceAddress_eq] at hsource
  refine ⟨hr.ended.byteAt_of_eventual hr.after hsource, hr.ended.byteAt_of_eventual hr.after (hdest.trans ?_)⟩
  split <;> rfl

/-- A raced read of a destination byte returns the byte from before the PASS or the final one, and leaves the final one
(R54, DSTR). -/
theorem RacedRun.destRead (hr : RacedRun s n (.memRead (destAddress s idx)) p v w t) (h : passAccepted s)
    (hc : passError s = none) (hi : idx < passSamples s) :
    t.replies = s.replies ++ [.byte (if v.hostFirst idx then s.byteAt (destAddress s idx)
        else outputFor s idx (s.byteAt (sourceAddress s idx)))] ∧
      t.byteAt (destAddress s idx) = outputFor s idx (s.byteAt (sourceAddress s idx)) := by
  obtain ⟨-, rfl⟩ := hostStep_memRead_eq_next.1 hr.host
  have hfinal := hr.eventual_dest h hc hi
  have hread := byteAt_raceOnDest_destAddress hr.runs (hr.ahead_eq_nil h) hfinal
  have hold : v.hostFirst idx = true → v.byteAt (destAddress v idx) = s.byteAt (destAddress v idx) := fun hf =>
    hr.byteAt_dest h (State.hostFirst_iff.1 hf).1
  rw [hr.destAddress_eq] at hfinal hread hold
  constructor
  · rw [hr.after.replies_eq, hostLoad_replies, hr.before.replies_eq, hread]
    split
    · next hf => rw [hold hf]; rfl
    · rfl
  · exact hr.ended.byteAt_of_eventual hr.after ((eventual_hostLoad _ v).trans hfinal)

/-- A raced write of a destination byte ends as the core's value or the host's (R54, DSTR). -/
theorem RacedRun.destWrite (hr : RacedRun s n (.memWrite (destAddress s idx) b) p v w t) (h : passAccepted s)
    (hc : passError s = none) (hi : idx < passSamples s) :
    t.byteAt (destAddress s idx) =
      if v.hostFirst idx then outputFor s idx (s.byteAt (sourceAddress s idx)) else b := by
  obtain ⟨-, rfl⟩ := hostStep_memWrite_eq_next.1 hr.host
  have hdest := eventual_hostStore_dest hr.runs (hr.ahead_eq_nil h) (hr.lt_passSamples hi) b
  rw [hr.eventual_dest h hc hi, hr.destAddress_eq] at hdest
  refine hr.ended.byteAt_of_eventual hr.after (hdest.trans ?_)
  split <;> rfl

theorem RacedRun.ends (hr : RacedRun s n access p v w t) :
    Machine.run (passSamples s + 2) (racedPass s n access p) = .next t ∧ t.status.busy = false ∧
      t.status.done = true := by
  refine ⟨hr.run, ?_⟩
  cases hr.ended with
  | ended hb hd => exact ⟨hb, hd⟩

end

/-- What a raced access leaves by whether the host's access comes before the core's is all it can leave, and each of the
two is left for some choices (R54). -/
theorem passAccepted.race_outcomes {s : State} (h : passAccepted s) (hc : passError s = none) {idx n : Nat}
    (hi : idx < passSamples s) (hn : n ≤ passSamples s) {access : HostAction} (ha : access ≠ .reset)
    (hm : (Turn.host access).inMemory s) {Q : Bool → State → Prop}
    (hQ : ∀ {p v w t}, RacedRun s n access p v w t → Q (v.hostFirst idx) t) :
    (∀ p, ∃ t, (run (passSamples s + 2) (racedPass s n access p) = .next t ∧ t.status.busy = false ∧
      t.status.done = true) ∧ (Q true t ∨ Q false t)) ∧
    ∀ b, ∃ p t, (run (passSamples s + 2) (racedPass s n access p) = .next t ∧ t.status.busy = false ∧
      t.status.done = true) ∧ Q b t := by
  refine ⟨fun p => ?_, fun b => ?_⟩
  · obtain ⟨v, _, t, hr⟩ := h.exists_racedRun hc hn ha hm p
    refine ⟨t, hr.ends, ?_⟩
    cases hf : v.hostFirst idx with
    | true => exact .inl (hf ▸ hQ hr)
    | false => exact .inr (hf ▸ hQ hr)
  · obtain ⟨p, _, _, t, hr, hf⟩ := h.exists_hostFirst hc hi hn ha hm b
    exact ⟨p, t, hr.ends, hf ▸ hQ hr⟩

/-- Settles O58: each race has two outcomes, by which access comes first. -/
theorem bufferRacesEndEitherWay : Obligations.BufferRacesEndEitherWay := by
  unfold Obligations.BufferRacesEndEitherWay
  intro s idx n v h hc hi hn source dest old raced ends
  obtain ⟨hsrc, hdst⟩ := addresses_of_unprocessed hc hi
  refine ⟨?_, ?_, ?_⟩
  · obtain ⟨hall, hsome⟩ := h.race_outcomes hc hi hn (access := .memWrite source v) (by simp) hsrc
      (Q := fun first t => t.byteAt source = v ∧
        t.byteAt dest = outputFor s idx (if first then v else s.byteAt source))
      fun hr => hr.sourceWrite h hc hi
    refine ⟨fun p => ?_, ?_, ?_⟩
    · obtain ⟨t, ht, ⟨hs, hd⟩ | ⟨hs, hd⟩⟩ := hall p
      · exact ⟨t, ht, hs, .inr hd⟩
      · exact ⟨t, ht, hs, .inl hd⟩
    · obtain ⟨p, t, ht, -, hd⟩ := hsome false
      exact ⟨p, t, ht, hd⟩
    · obtain ⟨p, t, ht, -, hd⟩ := hsome true
      exact ⟨p, t, ht, hd⟩
  · obtain ⟨hall, hsome⟩ := h.race_outcomes hc hi hn (access := .memRead dest) (by simp) hdst
      (Q := fun first t => t.replies = s.replies ++ [.byte (if first then s.byteAt dest else old)] ∧
        t.byteAt dest = old)
      fun hr => hr.destRead h hc hi
    refine ⟨fun p => ?_, ?_, ?_⟩
    · obtain ⟨t, ht, ⟨hreply, hd⟩ | ⟨hreply, hd⟩⟩ := hall p
      · exact ⟨t, _, ht, hreply, hd, .inl rfl⟩
      · exact ⟨t, _, ht, hreply, hd, .inr rfl⟩
    · obtain ⟨p, t, ht, hreply, -⟩ := hsome true
      exact ⟨p, t, ht, hreply⟩
    · obtain ⟨p, t, ht, hreply, -⟩ := hsome false
      exact ⟨p, t, ht, hreply⟩
  · obtain ⟨hall, hsome⟩ := h.race_outcomes hc hi hn (access := .memWrite dest v) (by simp) hdst
      (Q := fun first t => t.byteAt dest = if first then old else v)
      fun hr => hr.destWrite h hc hi
    refine ⟨fun p => ?_, hsome false, hsome true⟩
    obtain ⟨t, ht, hd⟩ := hall p
    exact ⟨t, ht, hd.symm⟩

end Sys2Proof.Machine
end

section
/-! The decoder and the encoder are inverse to each other, the rows of the opcode map and the illegal words (spec
30_encoding.md R59, R62, R65 to R67, R71). -/

namespace Sys2Proof

/-! ## The words that decode -/

/-- A command is well-formed when its order fits ORD (R62). -/
theorem wellFormed_iff {i : Instr} : WellFormed i ↔ orderOf i < 32 := by
  cases i <;> simp [WellFormed, wellFormed, orderOf, Config.ordBits]

/-- `decode` field by field (R66): the converse of `decode_ok` as well. -/
theorem decode_eq_ok_iff {w : Word} {i : Instr} :
    decode w = .ok i ↔ rsvField w = 0 ∧ ordField w = orderOf i ∧ opField w = (rowMatch i).toNat := by
  refine ⟨decode_ok, fun ⟨hrsv, hord, hop⟩ => ?_⟩
  rw [decode, if_neg (not_not.2 hrsv), hop, hord]
  cases i <;> rfl

/-- OP has 8 bits (R59). -/
theorem rowMatch_lt (i : Instr) : (rowMatch i).toNat < 2 ^ 8 := by
  cases i <;> simp [rowMatch]

/-- The word of a command as a number: ORD above OP (R59, R65). -/
theorem toNat_encode {i : Instr} (h : WellFormed i) : (encode i).toNat = 256 * orderOf i + (rowMatch i).toNat := by
  have hord : orderOf i < 32 := wellFormed_iff.1 h
  have hshift : (BitVec.ofNat 32 (orderOf i) <<< 8).toNat = orderOf i <<< 8 := by
    simp only [BitVec.toNat_shiftLeft, BitVec.toNat_ofNat, Nat.shiftLeft_eq]
    omega
  rw [encode, BitVec.toNat_or, hshift, ← Nat.shiftLeft_add_eq_or_of_lt (rowMatch_lt i), Nat.shiftLeft_eq]
  omega

/-- A word decodes to a command exactly when it is the word of that command, whose order fits ORD (R65, R66). -/
theorem decode_eq_ok_iff_encode {w : Word} {i : Instr} : decode w = .ok i ↔ WellFormed i ∧ encode i = w := by
  rw [decode_eq_ok_iff]
  constructor
  · rintro ⟨hrsv, hord, hop⟩
    have hwf : WellFormed i := wellFormed_iff.2 (hord ▸ ordField_lt w)
    refine ⟨hwf, BitVec.eq_of_toNat_eq ?_⟩
    rw [toNat_encode hwf, word_eq_fields w, hrsv, hord, hop]
    omega
  · rintro ⟨hwf, rfl⟩
    have hord : orderOf i < 32 := wellFormed_iff.1 hwf
    have hop : (rowMatch i).toNat < 2 ^ 8 := rowMatch_lt i
    rw [rsvField_eq, ordField_eq, opField_eq, toNat_encode hwf]
    omega

/-- Settles O3: the word of a command decodes to that command. -/
theorem encodedCommandDecodes : Obligations.EncodedCommandDecodes := by
  unfold Obligations.EncodedCommandDecodes
  exact fun i h => decode_eq_ok_iff_encode.2 ⟨h, rfl⟩

/-- Settles O4: a word decodes to no command but the one whose word it is. -/
theorem decodedWordEncodesBack : Obligations.DecodedWordEncodesBack := by
  unfold Obligations.DecodedWordEncodesBack
  exact fun w i h => decode_eq_ok_iff_encode.1 h

/-! ## The rows of the opcode map -/

/-- Two words are equal when their three fields are (R59). -/
theorem word_eq_iff_fields {v w : Word} :
    v = w ↔ rsvField v = rsvField w ∧ ordField v = ordField w ∧ opField v = opField w := by
  refine ⟨by rintro rfl; simp, fun ⟨hrsv, hord, hop⟩ => BitVec.eq_of_toNat_eq ?_⟩
  rw [word_eq_fields v, word_eq_fields w, hrsv, hord, hop]

/-- The match word of a row has OP alone (R65). -/
theorem fields_rowMatch (i : Instr) :
    rsvField (rowMatch i) = 0 ∧ ordField (rowMatch i) = 0 ∧ opField (rowMatch i) = (rowMatch i).toNat := by
  cases i <;> simp only [rowMatch] <;> decide

/-- The mask of BAYER and QUANT keeps RSV and OP and clears ORD (R65). -/
theorem fields_and_orderMask (w : Word) :
    rsvField (w &&& 0xFFFFE0FF) = rsvField w ∧ ordField (w &&& 0xFFFFE0FF) = 0 ∧
      opField (w &&& 0xFFFFE0FF) = opField w := by
  have hrsv : (0xFFFFE0FF : Word).extractLsb' 13 19 = BitVec.allOnes 19 := by decide
  have hord : (0xFFFFE0FF : Word).extractLsb' 8 5 = 0 := by decide
  have hop : (0xFFFFE0FF : Word).extractLsb' 0 8 = BitVec.allOnes 8 := by decide
  simp only [rsvField, ordField, opField, BitVec.extractLsb'_and, hrsv, hord, hop, BitVec.and_allOnes]
  simp

/-- The rows whose mask is the whole word: the word is the match word. -/
theorem decode_eq_ok_iff_of_order_zero {w : Word} {i : Instr} (h : orderOf i = 0) :
    decode w = .ok i ↔ w &&& 0xFFFFFFFF = rowMatch i := by
  have hmask : w &&& 0xFFFFFFFF = w := BitVec.and_allOnes
  obtain ⟨hrsv, hord, hop⟩ := fields_rowMatch i
  rw [hmask, decode_eq_ok_iff, word_eq_iff_fields, hrsv, hord, hop, h]

/-- The rows whose mask leaves ORD out: ORD is the order. -/
theorem decode_eq_ok_iff_and_orderMask {w : Word} {i : Instr} :
    decode w = .ok i ↔ w &&& 0xFFFFE0FF = rowMatch i ∧ orderOf i = w.toNat / 2 ^ 8 % 2 ^ 5 := by
  obtain ⟨hrsv, hord, hop⟩ := fields_rowMatch i
  obtain ⟨hrsv', hord', hop'⟩ := fields_and_orderMask w
  rw [decode_eq_ok_iff, word_eq_iff_fields, hrsv, hord, hop, hrsv', hord', hop', ordField_eq]
  exact ⟨fun ⟨hr, ho, hp⟩ => ⟨⟨hr, rfl, hp⟩, ho.symm⟩, fun ⟨⟨hr, _, hp⟩, ho⟩ => ⟨hr, ho.symm, hp⟩⟩

/-- Settles O2: six rows compare the whole word, the rows of BAYER and QUANT all of it but ORD. -/
theorem decodeByMaskAndMatch : Obligations.DecodeByMaskAndMatch := by
  unfold Obligations.DecodeByMaskAndMatch
  exact fun w => ⟨decode_eq_ok_iff_of_order_zero rfl, decode_eq_ok_iff_of_order_zero rfl,
    decode_eq_ok_iff_of_order_zero rfl, decode_eq_ok_iff_of_order_zero rfl, decode_eq_ok_iff_of_order_zero rfl,
    fun k => decode_eq_ok_iff_and_orderMask (i := .bayer k), fun k => decode_eq_ok_iff_and_orderMask (i := .quant k),
    decode_eq_ok_iff_of_order_zero rfl⟩

/-- Settles O1: the decoder runs on thirteen words written out. -/
theorem opcodeWordsDecode : Obligations.OpcodeWordsDecode := by
  unfold Obligations.OpcodeWordsDecode
  decide

/-! ## The illegal words -/

/-- `decode` refuses exactly what it gives no command. -/
theorem decode_error_iff {w : Word} : (∃ r, decode w = .error r) ↔ ¬ ∃ i, decode w = .ok i := by
  cases decode w <;> simp

/-- The legal words by their fields (R61 to R63): RSV is 0, OP is assigned, and ORD is 0 but for BAYER and QUANT. -/
theorem decode_legal_iff {w : Word} : (∃ i, decode w = .ok i) ↔
    rsvField w = 0 ∧ (opField w ∈ [1, 2, 3, 4, 5, 8] ∧ ordField w = 0 ∨ opField w ∈ [6, 7]) := by
  simp only [decode_eq_ok_iff]
  constructor
  · rintro ⟨i, hrsv, hord, hop⟩
    rw [hord, hop]
    cases i <;> simp [hrsv, orderOf, rowMatch]
  · rintro ⟨hrsv, ⟨hop, hord⟩ | hop⟩
    · have hrow : ∀ op ∈ [1, 2, 3, 4, 5, 8], ∃ i ∈ [Instr.ispow2, .findmsb, .dilate, .bitrev, .xoril, .pass],
          0 = orderOf i ∧ op = (rowMatch i).toNat := by decide
      obtain ⟨i, -, hi⟩ := hrow _ hop
      exact ⟨i, hrsv, hord ▸ hi⟩
    · simp only [List.mem_cons, List.not_mem_nil, or_false] at hop
      obtain hop | hop := hop
      · exact ⟨.bayer (ordField w), hrsv, rfl, hop⟩
      · exact ⟨.quant (ordField w), hrsv, rfl, hop⟩

/-- The commands whose order fits ORD: six without an order, and BAYER and QUANT of each order (R67). -/
def commands : List Instr :=
  [.ispow2, .findmsb, .dilate, .bitrev, .xoril, .pass] ++ (List.range 32).map .bayer ++ (List.range 32).map .quant

theorem mem_commands {i : Instr} : i ∈ commands ↔ WellFormed i := by
  rw [wellFormed_iff]
  cases i <;> simp [commands, orderOf]

/-- The legal words are the words of the commands (R67). -/
theorem mem_map_encode_commands {w : Word} : w ∈ commands.map encode ↔ ∃ i, decode w = .ok i := by
  simp only [List.mem_map, mem_commands, decode_eq_ok_iff_encode]

/-- Two commands have two words: each decodes to one command only. -/
theorem nodup_map_encode_commands : (commands.map encode).Nodup := by
  refine List.Nodup.map_on (fun i hi j hj hij => ?_) (by decide)
  have hdi : decode (encode i) = .ok i := encodedCommandDecodes i (mem_commands.1 hi)
  have hdj : decode (encode j) = .ok j := encodedCommandDecodes j (mem_commands.1 hj)
  rw [hij, hdj] at hdi
  exact (Except.ok.inj hdi).symm

end Sys2Proof

namespace Sys2Proof.Machine

/-- `raise Error(e)` leaves what the statements write out (60_exceptions.md R110). -/
theorem raiseError_eq_errorEnd (e : CmdError) (s : State) : raiseError e s = s.errorEnd e := rfl

/-- While BUSY = 1 an illegal word in PEND ends the command with ILLEGAL (R67). -/
theorem coreStep_of_illegal {s : State} {r : IllegalWord} (hb : s.status.busy = true)
    (hd : decode s.pend = .error r) : coreStep s = .next (s.errorEnd .illegal) := by
  rw [coreStep_of_error hb hd, raiseError_eq_errorEnd]

/-- An order above 16 ends the command with ORDER, whatever the operands (R62, R67). -/
theorem exec_order_above {i : Instr} (h : 17 ≤ orderOf i) (s : State) : exec i s = .next (s.errorEnd .order) := by
  cases i with
  | bayer k => rw [exec, execBayer, if_pos (show k > Config.maxOrder from h), raiseError_eq_errorEnd]
  | quant k => rw [exec, execQuant, if_pos (show k > Config.maxOrder from h), raiseError_eq_errorEnd]
  | _ => simp [orderOf] at h

/-- Settles O7: the core's turn of a busy core raises ILLEGAL when PEND does not decode. -/
theorem stepOnIllegalWordRaisesIllegal : Obligations.StepOnIllegalWordRaisesIllegal := by
  unfold Obligations.StepOnIllegalWordRaisesIllegal
  intro s r hb hd
  exact ⟨fun h => (step_of_nil h).trans (coreStep_of_illegal hb hd),
    fun rest h => (step_of_cons h).trans (coreStep_of_illegal hb hd)⟩

/-- Settles O5: the illegal words are those no command has; counting the legal ones is counting the commands. -/
theorem illegalWordsAreExactlyThese : Obligations.IllegalWordsAreExactlyThese := by
  unfold Obligations.IllegalWordsAreExactlyThese
  refine ⟨fun w => ?_, fun s hb ⟨r, hd⟩ => coreStep_of_illegal hb hd,
    ⟨commands.map encode, nodup_map_encode_commands, by decide, fun w => mem_map_encode_commands, by decide⟩,
    fun s i hb hd hord => ?_⟩
  · rw [decode_error_iff, decode_legal_iff, rsvField_eq, ordField_eq, opField_eq]
    simp only [List.mem_cons, List.not_mem_nil, or_false]
    omega
  · rw [coreStep_of_ok hb hd]
    obtain ⟨-, hi, -⟩ := decode_ok hd
    exact exec_order_above (hi ▸ ordField_eq s.pend ▸ hord) s

end Sys2Proof.Machine
end

section
/-! ISPOW2, FINDMSB, DILATE and BITREV: what each command ends with, and the bits of its result (spec 40_bitops.md). -/

namespace Sys2Proof.Machine

/-! ## The commands -/

/-- The end of a command that writes RESULT leaves what the statements write out (60_exceptions.md R109, R111). -/
theorem finishWith_eq_normalEnd (r : Word) (s : State) : finishWith r s = s.normalEnd r := rfl

theorem exec_ispow2 (s : State) : exec .ispow2 s = .next (s.normalEnd (boolWord (isPow2 s.opa))) := by
  rw [exec, execIspow2, State.operandA, finishWith_eq_normalEnd]

theorem exec_findmsb_of_eq_zero {s : State} (h : s.opa = 0) : exec .findmsb s = .next (s.errorEnd .zero) := by
  rw [exec, execFindmsb, State.operandA, if_pos h, raiseError_eq_errorEnd]

theorem exec_findmsb_of_ne_zero {s : State} (h : s.opa ≠ 0) :
    exec .findmsb s = .next (s.normalEnd (BitVec.ofNat 32 (findMSB s.opa))) := by
  rw [exec, execFindmsb, State.operandA, if_neg h, finishWith_eq_normalEnd]

theorem exec_dilate (s : State) : exec .dilate s = .next (s.normalEnd (dilate s.opa)) := by
  rw [exec, execDilate, State.operandALow, dilate_low16, finishWith_eq_normalEnd]

theorem exec_bitrev (s : State) : exec .bitrev s = .next (s.normalEnd (bitReverse s.opa)) := by
  rw [exec, execBitrev, State.operandA, finishWith_eq_normalEnd]

/-! ## The bits of the results -/

theorem boolWord_eq_zero_or_one (b : Bool) : boolWord b = 0 ∨ boolWord b = 1 := by
  cases b
  · exact .inl rfl
  · exact .inr rfl

theorem boolWord_eq_one_iff {b : Bool} : boolWord b = 1 ↔ b = true := by
  cases b <;> decide

/-- A word below 2^n has no bit set from n up. -/
theorem getLsbD_eq_false_of_toNat_lt {v : Word} {n m : Nat} (h : v.toNat < 2 ^ n) (hm : n ≤ m) :
    v.getLsbD m = false := by
  rw [← BitVec.testBit_toNat]
  exact Nat.testBit_eq_false_of_lt (h.trans_le (Nat.pow_le_pow_right Nat.two_pos hm))

/-- Bit FindMSB(v) of v is set (R75). -/
theorem getLsbD_findMSB {v : Word} (h : v ≠ 0) : v.getLsbD (findMSB v) = true := by
  obtain ⟨-, hle, hlt⟩ := findMSB_spec h
  rw [← BitVec.testBit_toNat]
  exact Nat.testBit_of_two_pow_le_and_two_pow_add_one_gt hle hlt

/-- No bit of v above FindMSB(v) is set (R75). -/
theorem getLsbD_eq_false_of_findMSB_lt {v : Word} {m : Nat} (h : v ≠ 0) (hm : findMSB v < m) :
    v.getLsbD m = false := by
  obtain ⟨-, -, hlt⟩ := findMSB_spec h
  exact getLsbD_eq_false_of_toNat_lt hlt hm

theorem getLsbD_dilate_two_mul (v : Word) {b : Nat} (hb : b < 16) : (dilate v).getLsbD (2 * b) = v.getLsbD b := by
  have h : 2 * b < 32 := by omega
  rw [getLsbD_dilate]
  simp [h]

theorem getLsbD_dilate_two_mul_add_one (v : Word) (b : Nat) : (dilate v).getLsbD (2 * b + 1) = false := by
  have h : (2 * b + 1) % 2 = 1 := by omega
  simp [getLsbD_dilate, h]

/-- Each of the low 16 bits is found again in the result, and above them both words are 0 (R76). -/
theorem dilate_injective_of_lt {v w : Word} (hv : v.toNat < 2 ^ 16) (hw : w.toNat < 2 ^ 16)
    (h : dilate v = dilate w) : v = w := by
  apply BitVec.eq_of_getLsbD_eq
  intro b _
  obtain hb | hb := Nat.lt_or_ge b 16
  · rw [← getLsbD_dilate_two_mul v hb, h, getLsbD_dilate_two_mul w hb]
  · rw [getLsbD_eq_false_of_toNat_lt hv hb, getLsbD_eq_false_of_toNat_lt hw hb]

theorem getLsbD_bitReverse_sub (v : Word) {n : Nat} (hn : n < 32) :
    (bitReverse v).getLsbD (31 - n) = v.getLsbD n := by
  have h : 31 - n < 32 := by omega
  have hinv : 31 - (31 - n) = n := by omega
  rw [getLsbD_bitReverse, hinv, decide_eq_true h, Bool.true_and]

theorem bitReverse_bitReverse (v : Word) : bitReverse (bitReverse v) = v := by
  apply BitVec.eq_of_getLsbD_eq
  intro n hn
  rw [getLsbD_bitReverse, getLsbD_bitReverse_sub v hn, decide_eq_true hn, Bool.true_and]

/-! ## The statements -/

/-- Settles O21: the model's test is the powers of two, and its Boolean is written as 1 or 0. -/
theorem ispow2TestsOneSetBit : Obligations.Ispow2TestsOneSetBit := by
  unfold Obligations.Ispow2TestsOneSetBit
  exact ⟨encodedCommandDecodes .ispow2 rfl, fun s =>
    ⟨_, exec_ispow2 s, boolWord_eq_zero_or_one _, boolWord_eq_one_iff.trans isPow2_iff⟩⟩

/-- Settles O22: the index is the logarithm, whose bit is the highest one set. -/
theorem findmsbGivesHighestSetBit : Obligations.FindmsbGivesHighestSetBit := by
  unfold Obligations.FindmsbGivesHighestSetBit
  refine ⟨encodedCommandDecodes .findmsb rfl, fun s => ⟨exec_findmsb_of_eq_zero, fun h => ?_⟩⟩
  obtain ⟨hlt, -, -⟩ := findMSB_spec h
  exact ⟨findMSB s.opa, hlt, exec_findmsb_of_ne_zero h, getLsbD_findMSB h,
    fun _ => getLsbD_eq_false_of_findMSB_lt h⟩

/-- Settles O23: the even bits of the result are the operand's low 16, the odd ones 0. -/
theorem dilateSpreadsLowBits : Obligations.DilateSpreadsLowBits := by
  unfold Obligations.DilateSpreadsLowBits
  exact ⟨encodedCommandDecodes .dilate rfl,
    fun s => ⟨_, exec_dilate s, fun b hb =>
      ⟨getLsbD_dilate_two_mul s.opa hb, getLsbD_dilate_two_mul_add_one s.opa b⟩⟩,
    fun _ _ => dilate_injective_of_lt⟩

/-- Settles O24: reversing twice moves each bit back. -/
theorem bitrevReversesWord : Obligations.BitrevReversesWord := by
  unfold Obligations.BitrevReversesWord
  exact ⟨encodedCommandDecodes .bitrev rfl,
    fun s => ⟨_, exec_bitrev s, fun _ hn => getLsbD_bitReverse_sub s.opa hn⟩, bitReverse_bitReverse⟩

end Sys2Proof.Machine
end

section
/-! XORIL and BAYER: what each command ends with, and the coefficient built up one order at a time: order k + 1 is
order k scaled by 4, plus a rank that depends on bit k of the two coordinates alone (spec 41_bayer.md). -/

namespace Sys2Proof

/-- The word of a command written as the rows of R65 write it: `(k << 8) | OP`. -/
theorem encode_eq_ofNat {i : Instr} (h : WellFormed i) :
    encode i = BitVec.ofNat 32 (orderOf i * 2 ^ 8 + (rowMatch i).toNat) := by
  have hord : orderOf i < 32 := wellFormed_iff.1 h
  have hop : (rowMatch i).toNat < 2 ^ 8 := rowMatch_lt i
  apply BitVec.eq_of_toNat_eq
  rw [toNat_encode h, BitVec.toNat_ofNat]
  omega

/-- The word `(k << 8) | 0x06` decodes to BAYER k (R79). -/
theorem decode_bayer_word {k : Nat} (h : k < 32) : decode (BitVec.ofNat 32 (k * 2 ^ 8 + 0x06)) = .ok (.bayer k) := by
  have hwf : WellFormed (.bayer k) := wellFormed_iff.2 h
  exact decode_eq_ok_iff_encode.2 ⟨hwf, encode_eq_ofNat hwf⟩

end Sys2Proof

namespace Sys2Proof.Machine

/-! ## The commands -/

theorem exec_xoril (s : State) : exec .xoril s = .next (s.normalEnd (xorInterleave s.opa s.opb)) := by
  rw [exec, execXoril, State.operandALow, State.operandBLow, xorInterleave_low16, finishWith_eq_normalEnd]

theorem exec_bayer_of_le {k : Nat} (h : k ≤ 16) (s : State) :
    exec (.bayer k) s = .next (s.normalEnd (bayerCoef s.opa s.opb k)) := by
  rw [exec, execBayer, if_neg (show ¬ k > Config.maxOrder from Nat.not_lt.2 h), State.operandALow, State.operandBLow,
    bayerCoef_low16, finishWith_eq_normalEnd]

/-! ## The bits of the interleaved code -/

/-- Even bits are of i xor j (R78). -/
theorem getLsbD_xorInterleave_two_mul (i j : Word) {b : Nat} (hb : b < 16) :
    (xorInterleave i j).getLsbD (2 * b) = (i.getLsbD b ^^ j.getLsbD b) := by
  have h : 2 * b < 32 := by omega
  rw [getLsbD_xorInterleave]
  simp [h]

/-- Odd bits are of j (R78). -/
theorem getLsbD_xorInterleave_two_mul_add_one (i j : Word) {b : Nat} (hb : b < 16) :
    (xorInterleave i j).getLsbD (2 * b + 1) = j.getLsbD b := by
  have h : 2 * b + 1 < 32 := by omega
  have hodd : (2 * b + 1) % 2 = 1 := by omega
  have hhalf : (2 * b + 1) / 2 = b := by omega
  rw [getLsbD_xorInterleave, hodd, hhalf]
  simp [h]

/-! ## The rank of a quadrant -/

/-- The two bits that an order adds below the coefficient, from a bit of the column and one of the row. -/
def quadrantRank (a b : Bool) : Nat := 2 * (a ^^ b).toNat + b.toNat

theorem quadrantRank_lt (a b : Bool) : quadrantRank a b < 4 := by
  revert a b
  decide

/-- Different quadrants have different ranks. -/
theorem quadrantRank_inj {a b a' b' : Bool} : quadrantRank a b = quadrantRank a' b' ↔ a = a' ∧ b = b' := by
  revert a b a' b'
  decide

/-! ## The coefficient from one order to the next -/

@[simp] theorem bayerCoef_zero (i j : Word) : bayerCoef i j 0 = 0 := by
  rw [bayerCoef, if_pos rfl]

/-- For k ≥ 1 the coefficient is the shift of R79. -/
theorem bayerCoef_of_pos (i j : Word) {k : Nat} (h : 1 ≤ k) :
    bayerCoef i j k = bitReverse (xorInterleave i j) >>> (32 - 2 * k) := by
  rw [bayerCoef, if_neg (Nat.one_le_iff_ne_zero.1 h)]

/-- Dropping the lowest two bits of the coefficient of order k + 1 leaves that of order k. -/
theorem bayerCoef_succ_div_four (i j : Word) {k : Nat} (hk : k < 16) :
    (bayerCoef i j (k + 1)).toNat / 4 = (bayerCoef i j k).toNat := by
  have hshift : bayerCoef i j (k + 1) >>> 2 = bayerCoef i j k := by
    apply BitVec.eq_of_getLsbD_eq
    intro n _
    have hlt : 2 + n < 2 * (k + 1) ↔ n < 2 * k := by omega
    have hbit : 2 * (k + 1) - 1 - (2 + n) = 2 * k - 1 - n := by omega
    rw [BitVec.getLsbD_ushiftRight, getLsbD_bayerCoef i j hk, getLsbD_bayerCoef i j hk.le, hbit, decide_eq_decide.2 hlt]
  rw [← hshift, BitVec.toNat_ushiftRight, Nat.shiftRight_eq_div_pow]

/-- The lowest two bits of the coefficient of order k + 1 are bits 2k and 2k + 1 of the interleaved code. -/
theorem bayerCoef_succ_mod_four (i j : Word) {k : Nat} (hk : k < 16) :
    (bayerCoef i j (k + 1)).toNat % 4 = quadrantRank (i.getLsbD k) (j.getLsbD k) := by
  have hlow : (bayerCoef i j (k + 1)).getLsbD 0 = j.getLsbD k := by
    have hbit : 2 * (k + 1) - 1 - 0 = 2 * k + 1 := by omega
    rw [getLsbD_bayerCoef i j hk, hbit, getLsbD_xorInterleave_two_mul_add_one i j hk, decide_eq_true (by omega),
      Bool.true_and]
  have hhigh : (bayerCoef i j (k + 1)).getLsbD 1 = (i.getLsbD k ^^ j.getLsbD k) := by
    have hbit : 2 * (k + 1) - 1 - 1 = 2 * k := by omega
    rw [getLsbD_bayerCoef i j hk, hbit, getLsbD_xorInterleave_two_mul i j hk, decide_eq_true (by omega), Bool.true_and]
  rw [quadrantRank, ← hhigh, ← hlow, ← BitVec.testBit_toNat, ← BitVec.testBit_toNat, Nat.toNat_testBit,
    Nat.toNat_testBit]
  omega

/-- Order k + 1 is order k scaled by 4 plus the rank of the quadrant that bit k names (R80, R82). -/
theorem bayerCoef_succ (i j : Word) {k : Nat} (hk : k < 16) :
    (bayerCoef i j (k + 1)).toNat =
      4 * (bayerCoef i j k).toNat + quadrantRank (i.getLsbD k) (j.getLsbD k) := by
  rw [← bayerCoef_succ_div_four i j hk, ← bayerCoef_succ_mod_four i j hk, Nat.div_add_mod]

/-- The range of the coefficient (R81). -/
theorem bayerCoef_lt (i j : Word) {k : Nat} (hk : k ≤ 16) : (bayerCoef i j k).toNat < 4 ^ k := by
  induction k with
  | zero => simp
  | succ k ih =>
    have hcoef : (bayerCoef i j k).toNat < 4 ^ k := ih (by omega)
    have hrank := quadrantRank_lt (i.getLsbD k) (j.getLsbD k)
    rw [bayerCoef_succ i j hk, Nat.pow_succ]
    omega

/-- The coefficient of order k has exactly the low k bits of the two coordinates in it (R80). -/
theorem bayerCoef_eq_iff {i j i' j' : Word} {k : Nat} (hk : k ≤ 16) :
    bayerCoef i j k = bayerCoef i' j' k ↔
      ∀ b < k, i.getLsbD b = i'.getLsbD b ∧ j.getLsbD b = j'.getLsbD b := by
  induction k with
  | zero => simp
  | succ k ih =>
    rw [Nat.forall_lt_succ_right, ← ih (by omega), ← quadrantRank_inj, ← BitVec.toNat_inj, ← BitVec.toNat_inj,
      bayerCoef_succ i j hk, bayerCoef_succ i' j' hk]
    have hrank := quadrantRank_lt (i.getLsbD k) (j.getLsbD k)
    have hrank' := quadrantRank_lt (i'.getLsbD k) (j'.getLsbD k)
    omega

/-- The closed form (R80): one order more scales the sum so far by 4 and adds the term of bit k. -/
theorem bayerCoef_eq_sum (i j : Word) {k : Nat} (hk : k ≤ 16) :
    (bayerCoef i j k).toNat =
      ∑ b ∈ Finset.range k, (((i ^^^ j).getLsbD b).toNat * 2 ^ (2 * k - 1 - 2 * b) +
        (j.getLsbD b).toNat * 2 ^ (2 * k - 2 - 2 * b)) := by
  induction k with
  | zero => simp
  | succ k ih =>
    have hscale : ∀ b ∈ Finset.range k, ∀ x y : Nat,
        x * 2 ^ (2 * (k + 1) - 1 - 2 * b) + y * 2 ^ (2 * (k + 1) - 2 - 2 * b) =
          4 * (x * 2 ^ (2 * k - 1 - 2 * b) + y * 2 ^ (2 * k - 2 - 2 * b)) := by
      intro b hb x y
      have hb : b < k := Finset.mem_range.1 hb
      have hhigh : 2 * (k + 1) - 1 - 2 * b = 2 * k - 1 - 2 * b + 2 := by omega
      have hlow : 2 * (k + 1) - 2 - 2 * b = 2 * k - 2 - 2 * b + 2 := by omega
      rw [hhigh, hlow, Nat.pow_add, Nat.pow_add]
      ring
    have hhigh : 2 * (k + 1) - 1 - 2 * k = 1 := by omega
    have hlow : 2 * (k + 1) - 2 - 2 * k = 0 := by omega
    rw [Finset.sum_range_succ, Finset.sum_congr rfl fun b hb => hscale b hb _ _, ← Finset.mul_sum, ← ih (by omega),
      bayerCoef_succ i j hk, hhigh, hlow, quadrantRank, BitVec.getLsbD_xor]
    omega

/-! ## Coordinates as numbers -/

/-- Reducing a coordinate below 2^k leaves its low k bits. -/
theorem getLsbD_ofNat_mod_two_pow (x : Nat) {b k : Nat} (hb : b < k) :
    (BitVec.ofNat 32 (x % 2 ^ k)).getLsbD b = (BitVec.ofNat 32 x).getLsbD b := by
  simp [BitVec.getLsbD_ofNat, Nat.testBit_mod_two_pow, hb]

/-- The matrix of order k repeats with period 2^k in both directions (R83). -/
theorem bayerCoef_mod_two_pow (x y : Nat) {k : Nat} (hk : k ≤ 16) :
    bayerCoef (BitVec.ofNat 32 (x % 2 ^ k)) (BitVec.ofNat 32 (y % 2 ^ k)) k =
      bayerCoef (BitVec.ofNat 32 x) (BitVec.ofNat 32 y) k :=
  (bayerCoef_eq_iff hk).2 fun _ hb => ⟨getLsbD_ofNat_mod_two_pow x hb, getLsbD_ofNat_mod_two_pow y hb⟩

/-- Below 2^(k+1), bit k of a coordinate says which half of the matrix it is in. -/
theorem getLsbD_ofNat_top {x k : Nat} (hk : k < 32) (hx : x < 2 ^ (k + 1)) :
    (BitVec.ofNat 32 x).getLsbD k = decide (x / 2 ^ k ≠ 0) := by
  have hhalf : x / 2 ^ k < 2 := Nat.div_lt_of_lt_mul (by rwa [← Nat.pow_succ])
  rw [BitVec.getLsbD_ofNat, decide_eq_true hk, Bool.true_and, Nat.testBit_eq_decide_div_mod_eq, decide_eq_decide]
  generalize x / 2 ^ k = half at hhalf ⊢
  omega

/-- Numbers below 2^k are equal when their low k bits are. -/
theorem eq_of_getLsbD_ofNat {x y k : Nat} (hk : k ≤ 32) (hx : x < 2 ^ k) (hy : y < 2 ^ k)
    (h : ∀ b < k, (BitVec.ofNat 32 x).getLsbD b = (BitVec.ofNat 32 y).getLsbD b) : x = y := by
  apply Nat.eq_of_testBit_eq
  intro b
  obtain hb | hb := Nat.lt_or_ge b k
  · have hb32 : b < 32 := by omega
    simpa only [BitVec.getLsbD_ofNat, hb32, decide_true, Bool.true_and] using h b hb
  · have hpow : 2 ^ k ≤ 2 ^ b := Nat.pow_le_pow_right Nat.two_pos hb
    rw [Nat.testBit_eq_false_of_lt (hx.trans_le hpow), Nat.testBit_eq_false_of_lt (hy.trans_le hpow)]

/-! ## The matrix as a bijection -/

/-- The entry of the matrix of order k at a place (column, row). -/
def bayerEntry (k : Nat) (p : Nat × Nat) : Nat := (bayerCoef (BitVec.ofNat 32 p.1) (BitVec.ofNat 32 p.2) k).toNat

/-- The places of the matrix of order k. -/
def bayerPlaces (k : Nat) : Finset (Nat × Nat) := Finset.range (2 ^ k) ×ˢ Finset.range (2 ^ k)

theorem mem_bayerPlaces {k : Nat} {p : Nat × Nat} : p ∈ bayerPlaces k ↔ p.1 < 2 ^ k ∧ p.2 < 2 ^ k := by
  simp [bayerPlaces]

theorem card_bayerPlaces (k : Nat) : (bayerPlaces k).card = 4 ^ k := by
  rw [bayerPlaces, Finset.card_product, Finset.card_range, ← Nat.mul_pow]

/-- Equal entries have equal low bits of both coordinates, which are all the bits of a place. -/
theorem bayerEntry_injOn {k : Nat} (hk : k ≤ 16) : Set.InjOn (bayerEntry k) (bayerPlaces k) := by
  intro p hp q hq h
  obtain ⟨hp1, hp2⟩ := mem_bayerPlaces.1 hp
  obtain ⟨hq1, hq2⟩ := mem_bayerPlaces.1 hq
  have hbits := (bayerCoef_eq_iff hk).1 (BitVec.eq_of_toNat_eq h)
  have hk32 : k ≤ 32 := by omega
  exact Prod.ext (eq_of_getLsbD_ofNat hk32 hp1 hq1 fun b hb => (hbits b hb).1)
    (eq_of_getLsbD_ofNat hk32 hp2 hq2 fun b hb => (hbits b hb).2)

/-- There are as many places as values, so every value occurs. -/
theorem bayerEntry_surjOn {k : Nat} (hk : k ≤ 16) :
    Set.SurjOn (bayerEntry k) (bayerPlaces k) (Finset.range (4 ^ k)) := by
  refine Finset.surjOn_of_injOn_of_card_le _ (fun p _ => ?_) (bayerEntry_injOn hk) ?_
  · exact Finset.mem_coe.2 (Finset.mem_range.2 (bayerCoef_lt _ _ hk))
  · rw [Finset.card_range, card_bayerPlaces]

/-! ## The statements -/

/-- Settles O25: bits 2b and 2b + 1 of the interleaved code, which reads only the low 16 bits of the operands. -/
theorem xorilInterleavesCoordinates : Obligations.XorilInterleavesCoordinates := by
  unfold Obligations.XorilInterleavesCoordinates
  refine ⟨encodedCommandDecodes .xoril rfl, fun s => ⟨_, exec_xoril s, fun b hb => ⟨?_, ?_⟩⟩⟩
  · rw [getLsbD_xorInterleave_two_mul _ _ hb, BitVec.getLsbD_xor]
  · exact getLsbD_xorInterleave_two_mul_add_one _ _ hb

/-- Settles O26: BAYER of a legal order ends with the coefficient, of another with ORDER. -/
theorem bayerCommandResult : Obligations.BayerCommandResult := by
  unfold Obligations.BayerCommandResult
  refine ⟨fun k hk => decode_bayer_word hk, fun s k => ⟨fun hk => ?_, fun hk => ?_, fun h1 hk => ?_⟩⟩
  · exact exec_order_above (i := .bayer k) hk s
  · rw [hk, exec_bayer_of_le (Nat.zero_le 16), bayerCoef_zero]
  · rw [exec_bayer_of_le hk, bayerCoef_of_pos _ _ h1]

/-- Settles O27: the closed form holds for k = 0 as well. -/
theorem bayerClosedForm : Obligations.BayerClosedForm := by
  unfold Obligations.BayerClosedForm
  exact fun i j k _ hk => bayerCoef_eq_sum i j hk

/-- Settles O28: the entry is injective on the places, and there are as many places as values. -/
theorem bayerIsBijection : Obligations.BayerIsBijection := by
  unfold Obligations.BayerIsBijection
  refine fun k hk => ⟨fun i j => bayerCoef_lt i j hk, fun n hn => ?_⟩
  obtain ⟨p, hp, rfl⟩ := bayerEntry_surjOn hk (Finset.mem_coe.2 (Finset.mem_range.2 hn))
  obtain ⟨hp1, hp2⟩ := mem_bayerPlaces.1 hp
  refine ⟨p, ⟨hp1, hp2, rfl⟩, fun q ⟨hq1, hq2, hq⟩ => ?_⟩
  exact bayerEntry_injOn hk (mem_bayerPlaces.2 ⟨hq1, hq2⟩) hp hq

/-- Settles O29: the top bits of the coordinates name the quadrant, the bits below them the place inside it. -/
theorem bayerRecursiveQuadrants : Obligations.BayerRecursiveQuadrants := by
  unfold Obligations.BayerRecursiveQuadrants
  refine ⟨fun i j => by simp, fun k h1 hk i hi j hj => ?_⟩
  obtain ⟨k, rfl⟩ := Nat.exists_eq_add_of_le' h1
  have hk32 : k < 32 := by omega
  have hk16 : k ≤ 16 := by omega
  simp only [Nat.add_sub_cancel]
  rw [bayerCoef_succ _ _ hk, bayerCoef_mod_two_pow _ _ hk16, getLsbD_ofNat_top hk32 hi, getLsbD_ofNat_top hk32 hj]
  by_cases hcol : i / 2 ^ k = 0 <;> by_cases hrow : j / 2 ^ k = 0 <;> simp [quadrantRank, hcol, hrow]

/-- Settles O30: the coefficient has no bit of the coordinates from k up in it, and BAYER ends with the coefficient. -/
theorem bayerTilesCoordinates : Obligations.BayerTilesCoordinates := by
  unfold Obligations.BayerTilesCoordinates
  intro k hk
  have htile : ∀ i j : Word, bayerCoef i j k =
      bayerCoef (BitVec.ofNat 32 (i.toNat % 2 ^ k)) (BitVec.ofNat 32 (j.toNat % 2 ^ k)) k := by
    intro i j
    rw [bayerCoef_mod_two_pow _ _ hk, BitVec.ofNat_toNat, BitVec.ofNat_toNat, BitVec.setWidth_eq, BitVec.setWidth_eq]
  exact ⟨htile, fun s => by rw [exec_bayer_of_le hk, htile]⟩

end Sys2Proof.Machine
end

section
/-! QUANT and its function: the chosen level as one comparison, the output of a level, and the integer rule as the
source's rule over exact rationals (spec 42_quantizer.md). -/

namespace Sys2Proof

/-- The word `(k << 8) | 0x07` decodes to QUANT k (R90). -/
theorem decode_quant_word {k : Nat} (h : k < 32) : decode (BitVec.ofNat 32 (k * 2 ^ 8 + 0x07)) = .ok (.quant k) := by
  have hwf : WellFormed (.quant k) := wellFormed_iff.2 h
  exact decode_eq_ok_iff_encode.2 ⟨hwf, encode_eq_ofNat hwf⟩

end Sys2Proof

namespace Sys2Proof.Machine

/-! ## The command -/

theorem operandSample_eq (s : State) : s.operandSample = s.opa.toNat % 2 ^ 8 := by
  simp [State.operandSample]

theorem exec_quant_of_colors_lt {k : Nat} {s : State} (hk : k ≤ 16) (hn : s.colors.toNat < 2) :
    exec (.quant k) s = .next (s.errorEnd .param) := by
  rw [exec, execQuant, if_neg (show ¬ k > Config.maxOrder from Nat.not_lt.2 hk), State.operandColors, if_pos hn,
    raiseError_eq_errorEnd]

theorem exec_quant_of_le_colors {k : Nat} {s : State} (hk : k ≤ 16) (hn : 2 ≤ s.colors.toNat) :
    exec (.quant k) s =
      .next (s.normalEnd (BitVec.ofNat 32 (quantize (s.opa.toNat % 2 ^ 8) s.opb.toNat k s.colors.toNat))) := by
  rw [exec, execQuant, if_neg (show ¬ k > Config.maxOrder from Nat.not_lt.2 hk), State.operandColors,
    if_neg (Nat.not_lt.2 hn), operandSample_eq, State.operandCoef, finishWith_eq_normalEnd]

/-! ## The chosen level -/

/-- The level of R89 as one comparison: where rem = 0 it fails by itself. -/
theorem quantLevel_eq_ite (s coef k n : Nat) :
    quantLevel s coef k n =
      if coef * 255 < s * (n - 1) % 255 * 4 ^ k then s * (n - 1) / 255 + 1 else s * (n - 1) / 255 := by
  by_cases hrem : s * (n - 1) % 255 = 0 <;> simp [quantLevel, hrem]

/-- An exact level is chosen whatever coef and k are (R94). -/
theorem quantLevel_of_exact {s n : Nat} (h : s * (n - 1) % 255 = 0) (coef k : Nat) :
    quantLevel s coef k n = s * (n - 1) / 255 := by
  simp [quantLevel_eq_ite, h]

/-- The chosen level is qmin's, or qmax's of an inexact sample: the two that bracket u (R94). -/
theorem quantLevel_cases (s coef k n : Nat) :
    quantLevel s coef k n = s * (n - 1) / 255 ∨
      (quantLevel s coef k n = s * (n - 1) / 255 + 1 ∧ s * (n - 1) % 255 ≠ 0) := by
  by_cases hrem : s * (n - 1) % 255 = 0
  · exact .inl (quantLevel_of_exact hrem coef k)
  · rw [quantLevel_eq_ite]
    split_ifs
    · exact .inr ⟨rfl, hrem⟩
    · exact .inl rfl

/-- L ≤ M (R91): qmax is chosen only of an inexact sample, which is below M · 255. -/
theorem quantLevel_le {s : Nat} (hs : s ≤ 255) (coef k n : Nat) : quantLevel s coef k n ≤ n - 1 := by
  have ht : s * (n - 1) ≤ 255 * (n - 1) := Nat.mul_le_mul_right _ hs
  obtain hmin | ⟨hmax, hrem⟩ := quantLevel_cases s coef k n <;> omega

/-- A larger sample chooses no lower level (R94): it has a larger a, or the same a and no smaller rem. -/
theorem quantLevel_mono_sample {s s' : Nat} (h : s ≤ s') (coef k n : Nat) :
    quantLevel s coef k n ≤ quantLevel s' coef k n := by
  have ht : s * (n - 1) ≤ s' * (n - 1) := Nat.mul_le_mul_right _ h
  obtain hdiv | hdiv := (Nat.div_le_div_right ht : s * (n - 1) / 255 ≤ s' * (n - 1) / 255).lt_or_eq
  · rw [quantLevel_eq_ite, quantLevel_eq_ite]
    split_ifs <;> omega
  · have hrem : s * (n - 1) % 255 ≤ s' * (n - 1) % 255 := by omega
    have hscaled := Nat.mul_le_mul_right (4 ^ k) hrem
    rw [quantLevel_eq_ite, quantLevel_eq_ite]
    split_ifs <;> omega

/-- A larger coefficient chooses no higher level (R94). -/
theorem quantLevel_antitone_coef {coef coef' : Nat} (h : coef ≤ coef') (s k n : Nat) :
    quantLevel s coef' k n ≤ quantLevel s coef k n := by
  rw [quantLevel_eq_ite, quantLevel_eq_ite]
  split_ifs <;> omega

/-- The two sides of the comparison differ for an inexact sample (R93): 4^k has no factor in common with 255. -/
theorem rem_mul_ne_coef_mul {rem : Nat} (hlt : rem < 255) (h0 : rem ≠ 0) (coef k : Nat) :
    rem * 4 ^ k ≠ coef * 255 := by
  intro htie
  have hcoprime : Nat.Coprime 255 (4 ^ k) := Nat.Coprime.pow_right k (by decide)
  have hdvd : 255 ∣ rem := hcoprime.dvd_of_dvd_mul_right ⟨coef, by rw [htie, Nat.mul_comm]⟩
  exact h0 (Nat.eq_zero_of_dvd_of_lt hdvd hlt)

/-! ## The output of a level -/

theorem levelOutput_mono {l l' : Nat} (h : l ≤ l') (m : Nat) : levelOutput l m ≤ levelOutput l' m :=
  Nat.div_le_div_right (by omega)

theorem levelOutput_zero {m : Nat} (hm : 0 < m) : levelOutput 0 m = 0 :=
  Nat.div_eq_of_lt (by omega)

/-- The top level is white (R92). -/
theorem levelOutput_self {m : Nat} (hm : 0 < m) : levelOutput m m = 255 := by
  rw [levelOutput, Nat.div_eq_iff (by omega)]
  omega

theorem levelOutput_le {l m : Nat} (hm : 0 < m) (h : l ≤ m) : levelOutput l m ≤ 255 :=
  levelOutput_self hm ▸ levelOutput_mono h m

/-- With 256 levels a level is its own output (R94). -/
theorem levelOutput_255 (l : Nat) : levelOutput l 255 = l := by
  rw [levelOutput]
  omega

theorem quantize_le {s n : Nat} (hs : s ≤ 255) (hn : 2 ≤ n) (coef k : Nat) : quantize s coef k n ≤ 255 :=
  levelOutput_le (by omega) (quantLevel_le hs coef k n)

/-! ## The rule over exact rationals -/

/-- R87 of a level: `round(l / m * 255)` with halves up is the integer quotient of R89. -/
theorem floor_level_mul_add_half (l : Nat) {m : Nat} (hm : 0 < m) :
    ⌊(l : ℚ) / m * 255 + 1 / 2⌋ = (levelOutput l m : Int) := by
  have hm' : (m : ℚ) ≠ 0 := Nat.cast_ne_zero.2 hm.ne'
  have hquot : (l : ℚ) / m * 255 + 1 / 2 = ((2 * l * 255 + m : Nat) : ℚ) / ((2 * m : Nat) : ℚ) := by
    push_cast
    field_simp
  rw [hquot, Rat.floor_natCast_div_natCast, levelOutput, Int.natCast_ediv]

/-- `floor(q)` of R88. -/
theorem floor_div_255 (t : Nat) : ⌊(t : ℚ) / 255⌋ = ((t / 255 : Nat) : Int) :=
  Rat.floor_natCast_div_natCast t 255

/-- `ceil(q)` of R88. -/
theorem ceil_div_255 (t : Nat) :
    ⌈(t : ℚ) / 255⌉ = ((if t % 255 = 0 then t / 255 else t / 255 + 1 : Nat) : Int) := by
  have hceil : ⌈(t : ℚ) / 255⌉ = -(-(t : Int) / 255) := Rat.ceil_natCast_div_natCast t 255
  rw [hceil]
  split_ifs <;> omega

/-- The ratio of R88 is rem / 255. -/
theorem ratio_eq_rem_div (s : Nat) {m : Nat} (hm : 0 < m) :
    ((s : ℚ) / 255 - ((s * m / 255 : Nat) : ℚ) / m) /
        ((((s * m / 255 : Nat) : ℚ) + 1) / m - ((s * m / 255 : Nat) : ℚ) / m) = ((s * m % 255 : Nat) : ℚ) / 255 := by
  have hm' : (m : ℚ) ≠ 0 := Nat.cast_ne_zero.2 hm.ne'
  have hsplit : (255 : ℚ) * ((s * m / 255 : Nat) : ℚ) + ((s * m % 255 : Nat) : ℚ) = (s : ℚ) * m := by
    exact_mod_cast Nat.div_add_mod (s * m) 255
  have hstep : (((s * m / 255 : Nat) : ℚ) + 1) / m - ((s * m / 255 : Nat) : ℚ) / m = 1 / m := by ring
  rw [hstep]
  field_simp
  linarith

/-- The comparison of R88 with its positive denominators cleared. -/
theorem coef_div_lt_rem_div_iff {coef k rem : Nat} :
    (coef : ℚ) / 4 ^ k < (rem : ℚ) / 255 ↔ coef * 255 < rem * 4 ^ k := by
  rw [div_lt_div_iff₀ (by positivity) (by norm_num)]
  exact_mod_cast Iff.rfl

/-- Step 5 of R85 chooses level L / M, with L of R89. -/
theorem exactOutput_eq_floor_quantLevel (s coef k : Nat) {m : Nat} (hm : 0 < m) :
    exactOutput s coef k (m + 1) = ⌊(quantLevel s coef k (m + 1) : ℚ) / m * 255 + 1 / 2⌋ := by
  have hm' : (0 : ℚ) < m := Nat.cast_pos.2 hm
  have hpred : ((m + 1 : Nat) : ℚ) - 1 = m := by push_cast; ring
  have hq : (s : ℚ) / 255 * m = ((s * m : Nat) : ℚ) / 255 := by push_cast; ring
  simp only [exactOutput, hpred, hq, floor_div_255, ceil_div_255, Int.cast_natCast]
  by_cases hrem : s * m % 255 = 0
  · rw [quantLevel_of_exact hrem, if_pos hrem, if_neg (lt_irrefl _), Nat.add_sub_cancel]
  · have hbracket : ((s * m / 255 : Nat) : ℚ) / m < (((s * m / 255 : Nat) : ℚ) + 1) / m :=
      div_lt_div_of_pos_right (lt_add_one _) hm'
    rw [quantLevel_eq_ite, if_neg hrem, Nat.cast_succ, if_pos hbracket, ratio_eq_rem_div s hm, Nat.add_sub_cancel]
    simp only [gt_iff_lt, coef_div_lt_rem_div_iff]
    split_ifs <;> simp

theorem quantize_eq_exactOutput {n : Nat} (hn : 2 ≤ n) (s coef k : Nat) :
    (quantize s coef k n : Int) = exactOutput s coef k n := by
  obtain ⟨m, rfl⟩ := Nat.exists_eq_add_of_le' (show 1 ≤ n by omega)
  have hm : 0 < m := by omega
  rw [exactOutput_eq_floor_quantLevel s coef k hm, floor_level_mul_add_half _ hm, quantize, Nat.add_sub_cancel]

/-! ## The statements -/

/-- Settles O31: ORDER comes from the order alone, then COLORS decides between PARAM and the normal end. -/
theorem quantCommandResult : Obligations.QuantCommandResult := by
  unfold Obligations.QuantCommandResult
  exact ⟨fun k hk => decode_quant_word hk, fun s k =>
    ⟨fun hk => exec_order_above (i := .quant k) hk s, exec_quant_of_colors_lt, exec_quant_of_le_colors⟩⟩

/-- Settles O32: clearing denominators, the rational ratio and threshold compare as the integers do. -/
theorem quantizeIsExactRationalRule : Obligations.QuantizeIsExactRationalRule := by
  unfold Obligations.QuantizeIsExactRationalRule
  exact fun s coef k n _ _ _ hn _ => quantize_eq_exactOutput hn s coef k

/-- Settles O33: every bound follows from L ≤ M and from the operands' ranges. -/
theorem quantizeWidths : Obligations.QuantizeWidths := by
  unfold Obligations.QuantizeWidths
  refine ⟨fun s coef k n hs hcoef hk hn hn32 => ?_, fun s k hk hn => ⟨_, exec_quant_of_le_colors hk hn, fun b hb => ?_⟩⟩
  · have hlevel : quantLevel s coef k n ≤ n - 1 := quantLevel_le hs coef k n
    have hprod : s * (n - 1) ≤ 255 * (n - 1) := Nat.mul_le_mul_right _ hs
    have hrem : s * (n - 1) % 255 * 4 ^ k ≤ 254 * 4 ^ 16 :=
      Nat.mul_le_mul (by omega) (Nat.pow_le_pow_right (by decide) hk)
    refine ⟨?_, ?_, ?_, hlevel, ?_, ?_, quantize_le hs hn coef k⟩ <;> omega
  · have hout : quantize (s.opa.toNat % 2 ^ 8) s.opb.toNat k s.colors.toNat ≤ 255 :=
      quantize_le (by omega) hn s.opb.toNat k
    refine getLsbD_eq_false_of_toNat_lt (n := 8) ?_ hb
    rw [State.normalEnd, BitVec.toNat_ofNat]
    omega

/-- Settles O34: both samples are exact levels, the lowest and the highest. -/
theorem quantizeExtremes : Obligations.QuantizeExtremes := by
  unfold Obligations.QuantizeExtremes
  intro coef k n hn _
  have hm : 0 < n - 1 := by omega
  have hblack : quantLevel 0 coef k n = 0 := by
    rw [quantLevel_of_exact (by omega)]
    omega
  have hwhite : quantLevel 255 coef k n = n - 1 := by
    rw [quantLevel_of_exact (by omega)]
    omega
  exact ⟨by rw [quantize, hblack, levelOutput_zero hm], by rw [quantize, hwhite, levelOutput_self hm]⟩

/-- Settles O35: without a tie "above" and "at least" are one condition. -/
theorem quantizeNeverTies : Obligations.QuantizeNeverTies := by
  unfold Obligations.QuantizeNeverTies
  intro s coef k n
  have hties : s * (n - 1) % 255 ≠ 0 → s * (n - 1) % 255 * 4 ^ k ≠ coef * 255 :=
    fun h0 => rem_mul_ne_coef_mul (Nat.mod_lt _ (by decide)) h0 coef k
  refine ⟨hties, ?_⟩
  by_cases hrem : s * (n - 1) % 255 = 0
  · rw [quantLevel_of_exact hrem, if_pos hrem]
  · have hiff : s * (n - 1) % 255 * 4 ^ k ≥ coef * 255 ↔ coef * 255 < s * (n - 1) % 255 * 4 ^ k :=
      (hties hrem).symm.le_iff_lt
    simp only [quantLevel_eq_ite, if_neg hrem, hiff]

/-- Settles O36: the output is monotone in the level, and the level in the sample and the coefficient. -/
theorem quantizeLevelsAndMonotone : Obligations.QuantizeLevelsAndMonotone := by
  unfold Obligations.QuantizeLevelsAndMonotone
  refine ⟨fun s coef k n _ hrem => ?_, fun s coef k _ => ?_, fun s s' coef k n _ h => ?_,
    fun s coef coef' k n _ h => ?_, fun s coef k n hs _ => ?_⟩
  · rw [quantize, quantLevel_of_exact hrem, levelOutput]
  · have hlevel : quantLevel s coef k 256 = s := by
      rw [quantLevel_of_exact (by omega)]
      omega
    rw [quantize, hlevel, levelOutput_255]
  · exact levelOutput_mono (quantLevel_mono_sample h coef k n) (n - 1)
  · exact levelOutput_mono (quantLevel_antitone_coef h s k n) (n - 1)
  · exact ⟨quantLevel s coef k n, quantLevel_le hs coef k n, rfl, quantLevel_cases s coef k n⟩

end Sys2Proof.Machine
end

section
/-! PASS step by step: what its check step and its sample steps do, written out from the spec (43_pass.md R97 to
R102). -/

namespace Sys2Proof.Machine

/-! ## The check step -/

/-- While TODO is empty, the core step of PASS is its check step (R97). -/
theorem exec_pass_of_todo_eq_nil {s : State} (h : s.todo = []) : exec .pass s = .next (passCheck s) := by
  rw [exec, execPass, State.chosenIndex_eq_none.2 h]

/-- A check that fails ends the PASS with its error (R101). -/
theorem exec_pass_of_passError {s : State} {e : CmdError} (h : s.todo = []) (he : passError s = some e) :
    exec .pass s = .next (s.errorEnd e) := by
  rw [exec_pass_of_todo_eq_nil h, passCheck, he]
  rfl

/-- When two ranges of sample memory pass its end (R97, step 5). -/
theorem outOfRange_iff {s : State} :
    outOfRange s = true ↔
      s.memBytes < s.srcBase.toNat + passSamples s ∨ s.memBytes < s.dstBase.toNat + passSamples s := by
  simp [outOfRange]

/-- When the two ranges share a byte (R97, step 6). -/
theorem buffersOverlap_iff {s : State} :
    buffersOverlap s = true ↔
      s.srcBase.toNat < s.dstBase.toNat + passSamples s ∧ s.dstBase.toNat < s.srcBase.toNat + passSamples s := by
  simp [buffersOverlap]

/-- SHAPE is the first check (R97, step 1). -/
theorem passError_of_shape {s : State} (h : s.width ≠ s.height) : passError s = some .shape := if_pos h

/-- SIZE is the second (R97, step 2). -/
theorem passError_of_size {s : State} (hwh : s.width = s.height) (h : ¬ ∃ k < 32, s.width.toNat = 2 ^ k) :
    passError s = some .size := by
  have hpow : isPow2 s.width = false := Bool.eq_false_of_not_eq_true (mt isPow2_iff.1 h)
  rw [passError, if_neg (not_not.2 hwh), if_pos hpow]

/-- The checks of a square image whose side is 2^k (R97, steps 3 to 6). -/
theorem passError_of_two_pow {s : State} {k : Nat} (hwh : s.width = s.height) (hk : s.width.toNat = 2 ^ k) :
    passError s =
      if k > Config.maxOrder then some .order
      else if s.channels = 0 ∨ s.operandColors < 2 then some .param
      else if outOfRange s then some .range
      else if buffersOverlap s then some .overlap
      else none := by
  have hlt : k < 32 := (Nat.pow_lt_pow_iff_right (by decide)).1 (hk ▸ s.width.isLt)
  have hpow : isPow2 s.width = true := isPow2_iff.2 ⟨k, hlt, hk⟩
  rw [passError, if_neg (not_not.2 hwh), if_neg (by simp [hpow]), findMSB_two_pow hk]

/-- Settles O37: each clause is the first check that fails, the last one that none does. -/
theorem passCheckStep : Obligations.PassCheckStep := by
  unfold Obligations.PassCheckStep
  intro s ht
  refine ⟨fun h => exec_pass_of_passError ht (passError_of_shape h),
    fun hwh h => exec_pass_of_passError ht (passError_of_size hwh h), fun k hwh hk => ?_⟩
  have hchecks := passError_of_two_pow hwh hk
  refine ⟨fun h => exec_pass_of_passError ht (hchecks.trans (if_pos h)), fun h16 h => ?_, fun h16 hch hcol => ?_⟩
  all_goals replace hchecks := hchecks.trans (if_neg (Nat.not_lt.2 h16))
  · exact exec_pass_of_passError ht (hchecks.trans (if_pos h))
  replace hchecks := hchecks.trans (if_neg (not_or.2 ⟨hch, Nat.not_lt.2 hcol⟩))
  refine ⟨fun h => exec_pass_of_passError ht (hchecks.trans (if_pos (outOfRange_iff.2 h))), fun hsrc hdst => ?_⟩
  replace hchecks := hchecks.trans
    (if_neg (mt outOfRange_iff.1 (not_or.2 ⟨Nat.not_lt.2 hsrc, Nat.not_lt.2 hdst⟩)))
  refine ⟨fun h => exec_pass_of_passError ht (hchecks.trans (if_pos (buffersOverlap_iff.2 h))), fun h => ?_⟩
  replace hchecks := hchecks.trans
    (if_neg (mt buffersOverlap_iff.1 fun ⟨h1, h2⟩ => h.elim h1.not_ge h2.not_ge))
  rw [exec_pass_of_todo_eq_nil ht, passCheck, hchecks, passStart, findMSB_two_pow hk]
  rfl

/-! ## The coordinates of a sample -/

/-- R98 takes an index apart as 20_memory.md R44 puts it together: the column. -/
theorem sampleColumn_sampleIndex {s : State} {x c : Nat} (hx : x < s.width.toNat) (hc : c < s.channels.toNat)
    (y : Nat) : sampleColumn s (sampleIndex s x y c) = x := by
  rw [sampleColumn, sampleIndex, Nat.add_mul_div_left _ _ (by omega), Nat.div_eq_of_lt hc, Nat.zero_add,
    Nat.add_mul_mod_self_left, Nat.mod_eq_of_lt hx]

/-- The row, likewise. -/
theorem sampleRow_sampleIndex {s : State} {x c : Nat} (hx : x < s.width.toNat) (hc : c < s.channels.toNat)
    (y : Nat) : sampleRow s (sampleIndex s x y c) = y := by
  rw [sampleRow, sampleIndex, Nat.add_mul_div_left _ _ (by omega), Nat.div_eq_of_lt hc, Nat.zero_add,
    Nat.add_mul_div_left _ _ (by omega), Nat.div_eq_of_lt hx, Nat.zero_add]

/-- The index of a sample of the image is below S (20_memory.md R44). -/
theorem sampleIndex_lt {s : State} {x y c : Nat} (hx : x < s.width.toNat) (hy : y < s.height.toNat)
    (hc : c < s.channels.toNat) : sampleIndex s x y c < passSamples s := by
  have hp : x + s.width.toNat * y < s.width.toNat * s.height.toNat :=
    calc x + s.width.toNat * y < s.width.toNat * (y + 1) := by rw [Nat.mul_succ]; omega
      _ ≤ s.width.toNat * s.height.toNat := Nat.mul_le_mul_left _ hy
  calc sampleIndex s x y c < s.channels.toNat * (x + s.width.toNat * y + 1) := by
        rw [sampleIndex, Nat.mul_succ]; omega
    _ ≤ s.channels.toNat * (s.width.toNat * s.height.toNat) := Nat.mul_le_mul_left _ hp
    _ = passSamples s := Nat.mul_comm ..

/-- The output of a sample step from the coordinates of its sample (R98). -/
theorem sampleOutput_sampleIndex {s : State} {x c : Nat} (hx : x < s.width.toNat) (hc : c < s.channels.toNat)
    (y : Nat) :
    sampleOutput s (sampleIndex s x y c) =
      BitVec.ofNat 8 (quantize (sourceByte s (sampleIndex s x y c)).toNat
        (bayerCoef (BitVec.ofNat 32 x) (BitVec.ofNat 32 y) s.kReg.toNat).toNat s.kReg.toNat s.colors.toNat) := by
  rw [sampleOutput, sampleCoef, sampleColumn_sampleIndex hx hc, sampleRow_sampleIndex hx hc]
  rfl

/-- The output of a running PASS from the coordinates of its sample (R104). -/
theorem outputFor_sampleIndex {s : State} {k x c : Nat} (hk : s.width.toNat = 2 ^ k) (hx : x < s.width.toNat)
    (hc : c < s.channels.toNat) (y : Nat) :
    outputFor s (sampleIndex s x y c) (s.byteAt (sourceAddress s (sampleIndex s x y c))) = finalByte s k x y c := by
  have hcol : sampleIndex s x y c / s.channels.toNat % s.width.toNat = x := sampleColumn_sampleIndex hx hc y
  have hrow : sampleIndex s x y c / s.channels.toNat / s.width.toNat = y := sampleRow_sampleIndex hx hc y
  simp only [outputFor, hcol, hrow, findMSB_two_pow hk]
  rfl

/-! ## The sample step -/

/-- While a PASS is running, the core step is a step of PASS (10_state.md R39). -/
theorem PassRunning.exec_pass {s : State} (h : PassRunning s) : exec .pass s = Machine.coreStep s :=
  (coreStep_of_ok h.busy (decode_eq_pass_iff.2 h.pend)).symm

/-- What a sample step changes beside memory (R98, R100). -/
theorem finishIfDone_storeSample_frame (idx : Nat) (s : State) :
    finishIfDone (storeSample idx s) = { s with
      mem := (finishIfDone (storeSample idx s)).mem
      todo := s.todo.filter (· != idx)
      ahead := if s.todo.filter (· != idx) = [] then [] else s.ahead.filter (·.1 != idx)
      picks := s.picks.tail
      draws := s.draws + 1
      status := if s.todo.filter (· != idx) = [] then { s.status with busy := false, done := true } else s.status } := by
  obtain ⟨h, e⟩ | ⟨h, e⟩ := finishIfDone_cases (storeSample idx s) <;> rw [e] <;> rw [storeSample_todo] at h
  · simp only [h, if_true]
    rfl
  · simp only [h, if_false]
    rfl

/-- Settles O38: the index chosen is processed, and `byteAt_sample` says what each byte then is. -/
theorem passSampleStep : Obligations.PassSampleStep := by
  unfold Obligations.PassSampleStep
  intro s h hne
  obtain ⟨idx, hi, hstep⟩ := h.coreStep hne
  have hstored : s.ahead.lookup idx ≠ some .written →
      (finishIfDone (storeSample idx s)).byteAt (s.dstBase.toNat + idx) = sampleOutput s idx :=
    fun hl => (byteAt_sample idx s _).trans (if_pos ⟨rfl, hl⟩)
  refine ⟨idx, hi, _, h.exec_pass.trans hstep, finishIfDone_storeSample_frame idx s, ?_,
    fun a ha => (byteAt_sample idx s a).trans (if_neg fun h0 => ha h0.1)⟩
  rintro x hx y - c hc rfl
  refine ⟨fun hl => ?_, fun b hl => ?_, fun hl => (byteAt_sample ..).trans (if_neg fun h0 => h0.2 hl)⟩
  · rw [hstored (by simp [hl]), sampleOutput_sampleIndex hx hc, sourceByte_of_no_record hl]
    rfl
  · have hb : sourceByte s (sampleIndex s x y c) = b := by rw [sourceByte, hl]
    rw [hstored (by simp [hl]), sampleOutput_sampleIndex hx hc, hb]

/-- Settles O39: the choice is the place of the index in TODO. -/
theorem passAnyIndexMayBeNext : Obligations.PassAnyIndexMayBeNext := by
  unfold Obligations.PassAnyIndexMayBeNext
  intro s idx h hi
  obtain ⟨p, hp, hget⟩ := List.getElem_of_mem hi
  have hchosen : State.chosenIndex { s with picks := p :: s.picks } = some idx := by
    rw [State.chosenIndex, State.pick, Nat.mod_eq_of_lt hp, List.getElem?_eq_getElem hp, hget]
  have hrunning : PassRunning { s with picks := p :: s.picks } := { h with }
  refine ⟨p, _, hrunning.exec_pass.trans (hrunning.coreStep_of_chosen hchosen), by simp, ?_, fun a ha => ?_⟩
  · rw [byteAt_sample]
    by_cases hl : s.ahead.lookup idx = some .written
    · rw [if_pos hl]
      exact if_neg fun h0 => h0.2 hl
    · rw [if_neg hl]
      exact if_pos ⟨rfl, hl⟩
  · exact (byteAt_sample idx _ a).trans (if_neg fun h0 => ha h0.1)

end Sys2Proof.Machine
end

section
/-! The end of a PASS in every interleaving with a host that keeps its duties (spec 43_pass.md R104): no such turn
changes what a byte ends as, unless it is the host's write of that byte. -/

namespace Sys2Proof.Machine

/-! ## What leaves what a byte ends as -/

/-- Of STATUS only BUSY plays a part in what a byte ends as. -/
theorem eventual_status {s : State} {st : Status} (h : st.busy = s.status.busy) (a : Nat) :
    State.eventual { s with status := st } a = s.eventual a := by
  refine eventual_congr (Option.ext fun j => ?_) rfl fun _ _ => rfl
  rw [destRace_eq_some, destRace_eq_some, State.passRuns_iff, State.passRuns_iff, h]
  rfl

/-- Writing the output of one index ahead leaves the records of the others. -/
theorem lookup_writeAhead_ne {i j : Nat} (h : j ≠ i) (s : State) :
    (writeAhead i s).ahead.lookup j = s.ahead.lookup j := by
  have hji : (j == i) = false := beq_eq_false_iff_ne.2 h
  rw [writeAhead, List.lookup_cons, hji]
  exact lookup_filter_ne h s.ahead

/-- An output the core writes ahead of its step changes what no other byte ends as: it is no source byte (43_pass.md
R97). -/
theorem eventual_writeAhead_ne {s : State} {idx a : Nat} (hc : passError s = none) (hi : idx < passSamples s)
    (ha : a ≠ destAddress s idx) : (writeAhead idx s).eventual a = s.eventual a := by
  have hother : ∀ j, a = destAddress s j → (writeAhead idx s).ahead.lookup j = s.ahead.lookup j :=
    fun j hj => lookup_writeAhead_ne (fun hji => ha (hj.trans (congrArg (destAddress s) hji))) s
  refine eventual_congr (Option.ext fun j => ?_) ((Memory.cell_writeByte ..).trans (if_neg ha)) fun j hj => ?_
  · rw [destRace_eq_some, destRace_eq_some]
    refine and_congr_right fun _ => and_congr_right fun hj => and_congr_right fun _ => ?_
    rw [hother j hj]
  · obtain ⟨-, haj, hu, -⟩ := destRace_eq_some.1 hj
    have hsrc := sourceAddress_ne_destAddress hc hi (State.unprocessed_iff.1 hu).1
    exact congrArg (outputFor s j)
      (sourceByte_congr (hother j haj) ((byteAt_writeAhead idx s _).trans (if_neg hsrc)))

/-- A host read of sample memory changes what no other byte ends as (20_memory.md R54). -/
theorem eventual_hostLoad_ne {a b : Nat} (h : b ≠ a) (s : State) : (hostLoad a s).eventual b = s.eventual b := by
  have hreply : (hostLoad a s).eventual b = (raceOnDest a s).eventual b := rfl
  rw [hreply]
  obtain ⟨-, e⟩ | ⟨idx, hd, ⟨-, e⟩ | ⟨-, e⟩⟩ := raceOnDest_cases a s <;> rw [e]
  · obtain ⟨hr, ha, hu, -⟩ := destRace_eq_some.1 hd
    exact eventual_writeAhead_ne (s := s.usePick) (State.passRuns_iff.1 hr).2.2 (State.unprocessed_iff.1 hu).1
      (ha ▸ h)
  · rfl

/-- A host write outside both buffers changes what no other byte ends as (20_memory.md R54). -/
theorem eventual_hostStore_ne {s : State} {a b : Nat} (hsrc : ¬ inSource s a) (hdst : ¬ inDest s a) (h : b ≠ a)
    (v : Byte) : (hostStore a v s).eventual b = s.eventual b := by
  rw [hostStore_of_noRace v (sourceRace_eq_none (.inr (.inr (.inr hsrc))))
    (destRace_eq_none (.inr (.inr (.inr hdst))))]
  refine eventual_congr rfl ((Memory.cell_writeByte ..).trans (if_neg h)) fun j hj => ?_
  obtain ⟨-, -, hu, -⟩ := destRace_eq_some.1 hj
  have hne : sourceAddress s j ≠ a := fun hja =>
    hsrc ⟨hja ▸ Nat.le_add_right _ _, hja ▸ Nat.add_lt_add_left (State.unprocessed_iff.1 hu).1 _⟩
  exact congrArg (outputFor s j) (sourceByte_congr rfl ((State.byteAt_storeByte ..).trans (if_neg hne)))

/-! ## What the turns of such a PASS keep -/

/-- A turn that keeps the host duties for the PASS of state s (43_pass.md R104) and writes none of the addresses of a
set. -/
structure Turn.Keeps (s : State) (kept : Set Nat) (turn : Turn) : Prop where
  harmless : turn.harmless s
  unwritten : ∀ a ∈ kept, ∀ v, turn ≠ .host (.memWrite a v)

/-- What such turns keep from one state to a later one: the registers a command reads, RESULT, ERR, and what each byte
of the set ends as. -/
structure PassKept (kept : Set Nat) (s t : State) : Prop where
  operands : SameOperands s t
  result : t.result = s.result
  err : t.status.err = s.status.err
  eventual : ∀ a ∈ kept, t.eventual a = s.eventual a

theorem SameOperands.trans {s t u : State} (h : SameOperands s t) (k : SameOperands t u) : SameOperands s u where
  opa := k.opa.trans h.opa
  opb := k.opb.trans h.opb
  width := k.width.trans h.width
  height := k.height.trans h.height
  channels := k.channels.trans h.channels
  colors := k.colors.trans h.colors
  srcBase := k.srcBase.trans h.srcBase
  dstBase := k.dstBase.trans h.dstBase
  pend := k.pend.trans h.pend

/-- The host duties of a PASS follow from the registers that place its buffers. -/
theorem SameOperands.harmless {s t : State} (h : SameOperands s t) {turn : Turn} (ht : turn.harmless s) :
    turn.harmless t := by
  cases turn with
  | core => trivial
  | host a =>
    cases a with
    | memWrite a v =>
      rw [Turn.harmless, inSource, inDest, passSamples_congr h.width h.height h.channels, h.srcBase, h.dstBase]
      exact ht
    | reset => exact ht
    | _ => trivial

protected theorem PassKept.trans {kept : Set Nat} {s t u : State} (h : PassKept kept s t) (k : PassKept kept t u) :
    PassKept kept s u where
  operands := h.operands.trans k.operands
  result := k.result.trans h.result
  err := k.err.trans h.err
  eventual := fun a ha => (k.eventual a ha).trans (h.eventual a ha)

/-- A turn that keeps the duties for a state of the PASS keeps them for the later ones. -/
protected theorem PassKept.keeps {kept : Set Nat} {s t : State} (h : PassKept kept s t) {turn : Turn}
    (ht : turn.Keeps s kept) : turn.Keeps t kept :=
  ⟨h.operands.harmless ht.harmless, ht.unwritten⟩

/-- The core's turns keep what every byte ends as. -/
theorem PassMoves.kept {s t : State} (h : PassMoves s t) (kept : Set Nat) : PassKept kept s t where
  operands := by rw [h.frame]; constructor <;> rfl
  result := by rw [h.frame]
  err := by
    obtain e | e := h.status <;> rw [e]
    exact Status.finished_err s.status
  eventual := fun a _ => h.eventual a

/-- No host action but reset changes ERR while BUSY = 1 (10_state.md R36). -/
theorem StatusMove.err_of_host {st su : Status} {a : HostAction} (h : StatusMove st (.host a) su) (ha : a ≠ .reset)
    (hb : st.busy = true) : su.err = st.err := by
  cases h with
  | kept => rfl
  | cleared v => exact Status.hostWrite_err st v
  | overrun v => rfl
  | accepted v _ h0 => simp [hb] at h0
  | reset => exact absurd rfl ha

/-- A host action that keeps the duties, while BUSY = 1. -/
theorem hostStep_kept {a : HostAction} {s t : State} {kept : Set Nat} (hs : hostStep a s = .next t)
    (hb : s.status.busy = true) (h : Turn.Keeps s kept (.host a)) : PassKept kept s t := by
  have ha : a ≠ .reset := by
    rintro rfl
    exact h.harmless
  refine ⟨hostStep_sameOperands hs ha hb, (hostStep_readOnly hs ha).1, (hostStep_statusMove hs).err_of_host ha hb, ?_⟩
  intro b hkept
  obtain ⟨w, off, -, rfl⟩ | ⟨w, off, v, -, rfl⟩ | ⟨addr, -, -, rfl⟩ | ⟨addr, v, rfl, -, rfl⟩ | ⟨rfl, -⟩ :=
    hostStep_next hs
  · rfl
  · obtain ⟨st, e, hst, -⟩ := busWrite_busy hb w off v
    rw [e, eventual_status hst]
  · by_cases hba : b = addr
    · rw [hba, eventual_hostLoad]
    · exact eventual_hostLoad_ne hba s
  · obtain ⟨hsrc, hdst⟩ := h.harmless
    refine eventual_hostStore_ne hsrc hdst ?_ v
    rintro rfl
    exact h.unwritten b hkept v rfl
  · exact absurd rfl ha

/-! ## The run to the end -/

/-- What holds of the core's turn and of the next turns scheduled holds of this turn, and of those after it (log entry
4). -/
theorem nextTurn_of_take {s : State} {n : Nat} {P : Turn → Prop} (hcore : P .core)
    (h : ∀ turn ∈ s.schedule.take (n + 1), P turn) :
    P (nextTurn s).1 ∧ ∀ turn ∈ s.schedule.tail.take n, P turn := by
  unfold nextTurn
  cases hs : s.schedule with
  | nil => exact ⟨hcore, by simp⟩
  | cons turn rest =>
    rw [hs] at h
    exact ⟨h turn List.mem_cons_self, fun other ho => h other (List.mem_cons_of_mem _ ho)⟩

/-- One turn, the core's or a host's that keeps the duties, in a PASS that has steps left. -/
theorem PassLeft.step_kept {s t : State} {n : Nat} {kept : Set Nat} (h : PassLeft s (n + 1))
    (hturn : (nextTurn s).1.Keeps s kept) (hs : step s = .next t) :
    (∃ m, PassLeft t m) ∧ PassKept kept s t ∧ t.schedule = s.schedule.tail := by
  have hnext : PassLeft (nextTurn s).2 (n + 1) := by
    rw [nextTurn_snd]
    exact h.update rfl ..
  have htaken : PassKept kept s (nextTurn s).2 := by
    rw [nextTurn_snd]
    exact (PassMoves.schedule s _).kept kept
  obtain ⟨-, hc⟩ | ⟨a, ht, ha⟩ := step_next hs
  · obtain ⟨t', ht', hsched, hleft, hmoves⟩ := hnext.coreStep
    obtain rfl : t' = t := by simpa using ht'.symm.trans hc
    exact ⟨⟨n, hleft⟩, htaken.trans (hmoves.kept kept), hsched.trans (nextTurn_schedule s)⟩
  · rw [ht] at hturn
    have hreset : a ≠ .reset := by
      rintro rfl
      exact hturn.harmless
    have hbusy := (State.passRuns_iff.1 hnext.passRuns).1
    exact ⟨⟨n + 1, hnext.hostStep hreset ha⟩, htaken.trans (hostStep_kept ha hbusy (htaken.keeps hturn)),
      (hostStep_schedule ha).trans (nextTurn_schedule s)⟩

/-- The run of such a PASS to the first state in which BUSY = 0. -/
theorem PassLeft.run_kept {s t : State} {n m : Nat} {kept : Set Nat} (h : PassLeft s (m + 1))
    (hturns : ∀ turn ∈ s.schedule.take n, turn.Keeps s kept) (hrun : Machine.run n s = .next t)
    (hidle : t.status.busy = false) (hbusy : ∀ i < n, ∀ u, Machine.run i s = .next u → u.status.busy = true) :
    PassLeft t 0 ∧ PassKept kept s t := by
  induction n generalizing s m with
  | zero =>
    obtain rfl : s = t := by simpa using hrun
    exact absurd (State.passRuns_iff.1 h.passRuns).1 (by simp [hidle])
  | succ n ih =>
    obtain ⟨u, hu, hrun⟩ := run_succ_next.1 hrun
    obtain ⟨hturn, hrest⟩ := nextTurn_of_take ⟨trivial, by simp⟩ hturns
    obtain ⟨⟨l, hleft⟩, hkept, hsched⟩ := h.step_kept hturn hu
    cases l with
    | succ l =>
      obtain ⟨hend, hkept'⟩ := ih hleft (fun turn ht => hkept.keeps (hrest turn (hsched ▸ ht))) hrun
        fun i hi v hv => hbusy (i + 1) (by omega) v ((run_succ_of_next hu i).trans hv)
      exact ⟨hend, hkept.trans hkept'⟩
    | zero =>
      cases n with
      | zero =>
        obtain rfl : u = t := by simpa using hrun
        exact ⟨hleft, hkept⟩
      | succ n =>
        have hb := hbusy 1 (by omega) u ((run_one s).trans hu)
        cases hleft with
        | ended h0 => simp [hb] at h0

/-- Settles O40: what a byte ends as is settled when the PASS is accepted, and no turn allowed changes it. -/
theorem passEndState : Obligations.PassEndState := by
  unfold Obligations.PassEndState
  intro s t n k h hc hk hturns hrun hidle hbusy
  have hkeeps : ∀ turn ∈ s.schedule.take n, turn.Keeps s {a | ∀ v, Turn.host (.memWrite a v) ∉ s.schedule.take n} :=
    fun turn ht => ⟨hturns turn ht, fun a ha v hav => ha v (hav ▸ ht)⟩
  obtain ⟨hleft, hops, hresult, herr, heventual⟩ := (PassLeft.of_accepted h hc).run_kept hkeeps hrun hidle hbusy
  cases hleft with
  | ended hb hdone _ _ horder =>
    have hcell : ∀ a, (∀ v, Turn.host (.memWrite a v) ∉ s.schedule.take n) → t.mem.cell a = s.eventual a :=
      fun a ha => (eventual_of_noRace (destRace_eq_none (.inl hb))).symm.trans (heventual a ha)
    refine ⟨hdone, herr, ?_, fun x hx y hy c hcc => ?_, fun a hdst ha => ?_, hresult, hops.opa, hops.opb, hops.width,
      hops.height, hops.channels, hops.colors, hops.srcBase, hops.dstBase⟩
    · obtain ⟨-, -, hk16, -⟩ := passError_none hc
      rw [findMSB_two_pow hk] at hk16
      rw [horder, hops.width, findMSB_two_pow hk, BitVec.toNat_ofNat, Nat.mod_eq_of_lt (by omega)]
    · have hi := sampleIndex_lt hx hy hcc
      rw [← outputFor_sampleIndex hk hx hcc]
      refine byteAt_of_cell ((hcell _ fun v hv => ?_).trans (h.eventual_dest hc hi))
      exact (hturns _ hv).2 ⟨Nat.le_add_right _ _, Nat.add_lt_add_left hi _⟩
    · have hnone : destRace s a = none := destRace_eq_none (.inr (.inr (.inr hdst)))
      rw [State.byteAt, Memory.readByte, hcell a ha, eventual_of_noRace hnone]
      rfl

end Sys2Proof.Machine
end

section
/-! Commands that end with an error: which errors they end with, what they leave, and what the error log records (spec
60_exceptions.md R107 to R117). -/

namespace Sys2Proof.Machine

/-! ## The errors a command ends with -/

/-- A sample step leaves ERR and ERRCODE as they were, the last one too (R111). -/
@[simp] theorem finishIfDone_err (s : State) : (finishIfDone s).status.err = s.status.err := by
  rw [finishIfDone_status]; split <;> rfl
@[simp] theorem finishIfDone_errcode (s : State) : (finishIfDone s).status.errcode = s.status.errcode := by
  rw [finishIfDone_status]; split <;> rfl

/-- A check that fails raises one of the errors R107 lists for PASS (43_pass.md R97). -/
theorem passError_mem_possibleErrors {s : State} {e : CmdError} (h : passError s = some e) :
    e ∈ possibleErrors .pass := by
  unfold passError at h
  split_ifs at h <;> cases h <;> decide

/-- A core step of a command leaves ERRCODE as it was, or ends the command with an error R107 lists for it. -/
theorem exec_errcode {i : Instr} {s t : State} (h : exec i s = .next t) :
    t.status.errcode = s.status.errcode ∨ ∃ e ∈ possibleErrors i, t = s.errorEnd e := by
  cases i with
  | ispow2 => cases h; exact .inl rfl
  | findmsb =>
    by_cases h0 : s.opa = 0
    · rw [exec_findmsb_of_eq_zero h0] at h
      cases h; exact .inr ⟨.zero, by decide, rfl⟩
    · rw [exec_findmsb_of_ne_zero h0] at h
      cases h; exact .inl rfl
  | dilate => cases h; exact .inl rfl
  | bitrev => cases h; exact .inl rfl
  | xoril => cases h; exact .inl rfl
  | bayer k =>
    by_cases hk : k ≤ 16
    · rw [exec_bayer_of_le hk] at h
      cases h; exact .inl rfl
    · rw [exec_order_above (i := .bayer k) (Nat.lt_of_not_ge hk)] at h
      cases h; exact .inr ⟨.order, List.mem_singleton_self _, rfl⟩
  | quant k =>
    by_cases hk : k ≤ 16
    · by_cases hn : s.colors.toNat < 2
      · rw [exec_quant_of_colors_lt hk hn] at h
        cases h; exact .inr ⟨.param, by simp [possibleErrors], rfl⟩
      · rw [exec_quant_of_le_colors hk (Nat.le_of_not_lt hn)] at h
        cases h; exact .inl rfl
    · rw [exec_order_above (i := .quant k) (Nat.lt_of_not_ge hk)] at h
      cases h; exact .inr ⟨.order, by simp [possibleErrors], rfl⟩
  | pass =>
    obtain ⟨-, e, he, rfl⟩ | ⟨-, -, rfl⟩ | ⟨idx, -, -, -, -, rfl⟩ := execPass_next h
    · exact .inr ⟨e, passError_mem_possibleErrors he, raiseError_eq_errorEnd e s⟩
    · exact .inl rfl
    · exact .inl (finishIfDone_errcode _)

/-- Settles O43: from ERRCODE = 0 a code can come only from an error end. -/
theorem failedCommandChangesOnlyStatus : Obligations.FailedCommandChangesOnlyStatus := by
  unfold Obligations.FailedCommandChangesOnlyStatus
  intro i s t e h0 h he
  obtain hkept | ⟨e', hmem, rfl⟩ := exec_errcode h
  · simp [hkept, h0] at he
  · obtain rfl : e' = e := Option.some.inj he
    exact ⟨rfl, hmem⟩

/-! ## The error log -/

@[simp] theorem hostLoad_errLog (a : Nat) (s : State) : (hostLoad a s).errLog = s.errLog := by
  obtain ⟨m, ah, p, d, b, h⟩ := hostLoad_frame a s
  rw [h]

@[simp] theorem hostStore_errLog (a : Nat) (v : Byte) (s : State) : (hostStore a v s).errLog = s.errLog := by
  obtain ⟨m, ah, p, d, h⟩ := hostStore_frame a v s
  rw [h]

/-- No host action touches the error log, reset included (log entry 8). -/
theorem hostStep_errLog {a : HostAction} {s t : State} (h : hostStep a s = .next t) : t.errLog = s.errLog := by
  obtain ⟨w, off, -, rfl⟩ | ⟨w, off, v, -, rfl⟩ | ⟨addr, -, -, rfl⟩ | ⟨addr, v, -, -, rfl⟩ | ⟨-, rfl⟩ :=
    hostStep_next h
  · rfl
  · exact busWrite_errLog w off v s
  · exact hostLoad_errLog addr s
  · exact hostStore_errLog addr v s
  · rfl

/-- A core step leaves the error log, ERR and ERRCODE as they were, or is the end of a command with an error (R110). -/
theorem CoreMove.errLog_cases {s t : State} (h : CoreMove s t) :
    (t.errLog = s.errLog ∧ t.status.err = s.status.err ∧ t.status.errcode = s.status.errcode) ∨
      (s.status.busy = true ∧ ∃ e, t = s.errorEnd e) := by
  cases h with
  | idle => exact .inl ⟨rfl, rfl, rfl⟩
  | result => exact .inl ⟨rfl, rfl, rfl⟩
  | error e hb => exact .inr ⟨hb, e, raiseError_eq_errorEnd e s⟩
  | start => exact .inl ⟨rfl, rfl, rfl⟩
  | sample => exact .inl ⟨finishIfDone_errLog _, finishIfDone_err _, finishIfDone_errcode _⟩

/-- Settles O53: only the core's error end writes the log; a legal STATUS shows no error while BUSY = 1, and a core step
that writes no entry keeps it so. -/
theorem errorLogRecordsEveryError : Obligations.ErrorLogRecordsEveryError := by
  unfold Obligations.ErrorLogRecordsEveryError
  intro s t hl hs
  obtain ⟨hcore, hc⟩ | ⟨a, hhost, ha⟩ := step_next hs
  · obtain ⟨hlog, herr, hcode⟩ | ⟨hb, e, rfl⟩ := (coreMove_of_coreStep hc).errLog_cases
    · rw [nextTurn_status] at herr hcode
      refine .inl ⟨hlog.trans (nextTurn_errLog s), fun _ hb => ?_⟩
      obtain ⟨-, herr0, hcode0⟩ := Status.legal_busy hl hb
      exact ⟨herr.trans herr0, hcode.trans hcode0⟩
    · rw [nextTurn_status] at hb
      exact .inr ⟨e, hcore, hb, by simp [State.errorEnd], rfl⟩
  · exact .inl ⟨(hostStep_errLog ha).trans (nextTurn_errLog s), fun hcore => by simp [hhost] at hcore⟩

end Sys2Proof.Machine
end

section
/-! Reset and the first commands after it (spec 70_reset_and_hazards.md R126 to R130). -/

namespace Sys2Proof.Machine

/-! ## The state after reset -/

/-- Settles O18: the reset turn is `assertReset`, whose fields are those listed. -/
theorem resetInputClearsRegisters : Obligations.ResetInputClearsRegisters := by
  unfold Obligations.ResetInputClearsRegisters
  intro s rest hs
  exact step_of_cons hs

/-! ## The first command after reset -/

/-- A command written right after reset, and the core step that follows (10_state.md R35, R39). -/
theorem run_command_afterReset (s : State) {i : Instr} (hi : WellFormed i) :
    run 2 { assertReset s with schedule := [cmd i, .core] } =
      exec i (accept (encode i) { assertReset s with schedule := [] }) :=
  (commandWriteWhileIdleAccepts.2 { assertReset s with schedule := [cmd i, .core] } (encode i) [] rfl rfl).1 i
    (encodedCommandDecodes i hi)

/-- In a cleared configuration PASS fails its second check: 0 is no power of two (43_pass.md R97). -/
theorem passError_of_width_zero {s : State} (hw : s.width = 0) (hh : s.height = 0) : passError s = some .size := by
  refine passError_of_size (hw.trans hh.symm) fun ⟨k, _, hk⟩ => ?_
  rw [hw] at hk
  exact (Nat.two_pow_pos k).ne hk

/-- The coefficient at column 0 and row 0 is 0 in every order (41_bayer.md R79). -/
theorem bayerCoef_origin {k : Nat} (hk : k ≤ 16) : bayerCoef 0 0 k = 0 := by
  refine BitVec.eq_of_getLsbD_eq fun n _ => ?_
  rw [getLsbD_bayerCoef 0 0 hk, getLsbD_xorInterleave]
  simp

/-- Settles O20: each command meets the cleared registers. -/
theorem commandsRightAfterReset : Obligations.CommandsRightAfterReset := by
  unfold Obligations.CommandsRightAfterReset
  intro s
  have hord : ∀ k ≤ 16, k < 2 ^ 5 := fun k hk => hk.trans_lt (by decide)
  have hsize : ({ Status.reset with err := true, errcode := some .size } : Status).word = 0x34 := by decide
  have hparam : ({ Status.reset with err := true, errcode := some .param } : Status).word = 0x54 := by decide
  have hdone : ({ Status.reset with done := true } : Status).word = 0x02 := by decide
  refine ⟨⟨rfl, rfl, rfl, rfl⟩, ?_, fun k hk => ?_, fun k hk => ?_⟩
  · have hrun := run_command_afterReset s (i := .pass) rfl
    exact ⟨_, hrun.trans (exec_pass_of_passError rfl (passError_of_width_zero rfl rfl)), hsize⟩
  · have hrun := run_command_afterReset s (i := .quant k) (wellFormed_iff.2 (hord k hk))
    exact ⟨_, hrun.trans (exec_quant_of_colors_lt hk Nat.zero_lt_two), hparam⟩
  · have hrun := run_command_afterReset s (i := .bayer k) (wellFormed_iff.2 (hord k hk))
    exact ⟨_, hrun.trans (exec_bayer_of_le hk _), hdone, bayerCoef_origin hk⟩

end Sys2Proof.Machine
end

section
/-! A PASS abandoned by reset (spec 70_reset_and_hazards.md R128): what the turns before the reset keep, and which
indices it finds processed. -/

namespace Sys2Proof.Machine

/-! ## Host actions while a PASS runs -/

/-- No host action changes MEM_BYTES (00_scope.md R7; log entry 1). -/
theorem hostStep_memLast {a : HostAction} {s t : State} (h : hostStep a s = .next t) : t.memLast = s.memLast := by
  obtain ⟨w, off, -, rfl⟩ | ⟨w, off, v, -, rfl⟩ | ⟨addr, -, -, rfl⟩ | ⟨addr, v, -, -, rfl⟩ | ⟨-, rfl⟩ :=
    hostStep_next h
  · rfl
  · exact busWrite_memLast w off v s
  · obtain ⟨m, ah, p, d, b, e⟩ := hostLoad_frame addr s
    rw [e]
  · obtain ⟨m, ah, p, d, e⟩ := hostStore_frame addr v s
    rw [e]
  · rfl

/-- Of STATUS only BUSY plays a part in which destination bytes are still to be written. -/
theorem destRace_status {s : State} {st : Status} (h : st.busy = s.status.busy) (a : Nat) :
    destRace { s with status := st } a = destRace s a := by
  refine Option.ext fun j => ?_
  rw [destRace_eq_some, destRace_eq_some, State.passRuns_iff, State.passRuns_iff, h]
  rfl

/-- An output the core writes ahead of its step takes its byte from those still to be written; the others are still to
be written, and hold what they held (20_memory.md R54). -/
theorem pending_writeAhead {s : State} {i a idx : Nat} (h : destRace (writeAhead i s) a = some idx) :
    destRace s a = some idx ∧ (writeAhead i s).mem.cell a = s.mem.cell a := by
  obtain ⟨hr, rfl, hu, hl⟩ := destRace_eq_some.1 h
  have hne : idx ≠ i := by
    rintro rfl
    exact hl List.lookup_cons_self
  rw [lookup_writeAhead_ne hne] at hl
  exact ⟨destRace_eq_some.2 ⟨hr, rfl, hu, hl⟩,
    (Memory.cell_writeByte ..).trans (if_neg (mt (destAddress_inj (s := s)).1 hne))⟩

/-- A destination byte that is still to be written after a host read was so before it, and holds what it held. -/
theorem pending_hostLoad {s : State} {a b idx : Nat} (h : destRace (hostLoad a s) b = some idx) :
    destRace s b = some idx ∧ (hostLoad a s).mem.cell b = s.mem.cell b := by
  have hmem : (hostLoad a s).mem = (raceOnDest a s).mem := rfl
  replace h : destRace (raceOnDest a s) b = some idx := h
  rw [hmem]
  obtain ⟨-, e⟩ | ⟨i, -, ⟨-, e⟩ | ⟨-, e⟩⟩ := raceOnDest_cases a s <;> rw [e] at h ⊢
  · exact ⟨h, rfl⟩
  · exact pending_writeAhead (s := s.usePick) h
  · exact ⟨h, rfl⟩

/-- A host write outside both buffers races with nothing (20_memory.md R54). -/
theorem hostStore_of_outside {s : State} {a : Nat} (h : ¬ inSource s a ∧ ¬ inDest s a) (v : Byte) :
    hostStore a v s = s.storeByte a v :=
  hostStore_of_noRace v (sourceRace_eq_none (.inr (.inr (.inr h.1)))) (destRace_eq_none (.inr (.inr (.inr h.2))))

/-- A destination byte that is still to be written after a host action that keeps the duties was so before it, and holds
what it held. -/
theorem hostStep_pending {act : HostAction} {s t : State} (h : hostStep act s = .next t) (hb : s.status.busy = true)
    (hturn : Turn.harmless s (.host act)) {a idx : Nat} (hd : destRace t a = some idx) :
    destRace s a = some idx ∧ t.mem.cell a = s.mem.cell a := by
  obtain ⟨w, off, -, rfl⟩ | ⟨w, off, v, -, rfl⟩ | ⟨addr, -, -, rfl⟩ | ⟨addr, v, rfl, -, rfl⟩ | ⟨rfl, -⟩ :=
    hostStep_next h
  · exact ⟨hd, rfl⟩
  · obtain ⟨st, e, hst, -⟩ := busWrite_busy hb w off v
    rw [e] at hd ⊢
    exact ⟨destRace_status hst a ▸ hd, rfl⟩
  · exact pending_hostLoad hd
  · rw [hostStore_of_outside hturn] at hd ⊢
    replace hd : destRace s a = some idx := hd
    have hne : a ≠ addr := by
      rintro rfl
      exact hturn.2 (inDest_of_destRace hd).2.2.2
    exact ⟨hd, (Memory.cell_writeByte ..).trans (if_neg hne)⟩
  · exact absurd hturn id

/-- Of the host actions that keep the duties, only a read of a destination byte can put an access of the core first
(20_memory.md R54). -/
theorem hostStep_ahead {act : HostAction} {s t : State} (h : hostStep act s = .next t)
    (hturn : Turn.harmless s (.host act)) : t.ahead = s.ahead ∨ ∃ a, act = .memRead a ∧ inDest s a := by
  obtain ⟨w, off, -, rfl⟩ | ⟨w, off, v, -, rfl⟩ | ⟨addr, rfl, -, rfl⟩ | ⟨addr, v, rfl, -, rfl⟩ | ⟨rfl, -⟩ :=
    hostStep_next h
  · exact .inl rfl
  · exact .inl (busWrite_ahead w off v s)
  · by_cases hd : inDest s addr
    · exact .inr ⟨addr, rfl, hd⟩
    · rw [hostLoad_of_noRace (destRace_eq_none (.inr (.inr (.inr hd))))]
      exact .inl rfl
  · rw [hostStore_of_outside hturn]
    exact .inl rfl
  · exact absurd hturn id

/-! ## The turns of a PASS that keep the host duties -/

/-- What turns that keep the host duties do from one state of a PASS to a later one: they keep what `PassKept` says, the
error log and MEM_BYTES; a destination byte still to be written was so before and holds what it held; and unless the
host reads a destination byte, every record of an access put first is an old one. -/
structure PassTurns (turns : List Turn) (s t : State) : Prop where
  kept : PassKept {a | ∀ v, Turn.host (.memWrite a v) ∉ turns} s t
  memLast : t.memLast = s.memLast
  errLog : t.errLog = s.errLog
  pending : ∀ a idx, destRace t a = some idx → destRace s a = some idx ∧ t.mem.cell a = s.mem.cell a
  ahead : (∀ a, Turn.host (.memRead a) ∈ turns → ¬ inDest s a) → t.ahead.Sublist s.ahead

theorem PassKept.mono {kept kept' : Set Nat} {s t : State} (h : PassKept kept s t) (hsub : kept' ⊆ kept) :
    PassKept kept' s t :=
  { h with eventual := fun a ha => h.eventual a (hsub ha) }

/-- The destination range of a PASS follows from the registers that place it. -/
theorem SameOperands.inDest_iff {s t : State} (h : SameOperands s t) {a : Nat} : inDest t a ↔ inDest s a := by
  rw [inDest, inDest, passSamples_congr h.width h.height h.channels, h.dstBase]

protected theorem PassTurns.append {turns turns' : List Turn} {s t u : State} (h : PassTurns turns s t)
    (k : PassTurns turns' t u) : PassTurns (turns ++ turns') s u where
  kept := by
    have hleft := h.kept.mono (kept' := {a | ∀ v, Turn.host (.memWrite a v) ∉ turns ++ turns'})
      fun _ ha v hv => ha v (List.mem_append_left _ hv)
    exact hleft.trans (k.kept.mono fun _ ha v hv => ha v (List.mem_append_right _ hv))
  memLast := k.memLast.trans h.memLast
  errLog := k.errLog.trans h.errLog
  pending := fun a idx hu =>
    let ⟨ht, hc⟩ := k.pending a idx hu
    let ⟨hs, hc'⟩ := h.pending a idx ht
    ⟨hs, hc.trans hc'⟩
  ahead := fun hreads =>
    (k.ahead fun a ha hd => hreads a (List.mem_append_right _ ha) (h.kept.operands.inDest_iff.1 hd)).trans
      (h.ahead fun a ha => hreads a (List.mem_append_left _ ha))

/-- The core's turns. -/
theorem PassMoves.turns {s t : State} (h : PassMoves s t) (turns : List Turn) : PassTurns turns s t where
  kept := h.kept _
  memLast := by rw [h.frame]
  errLog := by rw [h.frame]
  pending := h.pending
  ahead := fun _ => h.ahead

/-- A host action that keeps the duties, while BUSY = 1. -/
theorem hostStep_passTurns {act : HostAction} {s t : State} (h : hostStep act s = .next t)
    (hb : s.status.busy = true) (hturn : Turn.harmless s (.host act)) : PassTurns [.host act] s t where
  kept := hostStep_kept h hb ⟨hturn, fun _ ha v hv => ha v (hv ▸ List.mem_singleton_self _)⟩
  memLast := hostStep_memLast h
  errLog := hostStep_errLog h
  pending := fun _ _ hd => hostStep_pending h hb hturn hd
  ahead := fun hreads => by
    obtain e | ⟨a, rfl, hd⟩ := hostStep_ahead h hturn
    · rw [e]
    · exact absurd hd (hreads a (List.mem_singleton_self _))

/-- One turn that keeps the duties, in a PASS that has steps left after it. -/
theorem PassLeft.step_turn {s : State} {n : Nat} {turn : Turn} {rest : List Turn}
    (h : PassLeft s (n + 1 + [turn].count .core)) (hs : s.schedule = turn :: rest) (hturn : turn.harmless s)
    (hmem : turn.inMemory s) :
    ∃ t, step s = .next t ∧ t.schedule = rest ∧ PassLeft t (n + 1) ∧ PassTurns [turn] s t := by
  have htaken : PassTurns [] s { s with schedule := rest } := (PassMoves.schedule s rest).turns []
  rw [step_of_cons hs]
  cases turn with
  | core =>
    have hleft : PassLeft { s with schedule := rest } (n + 1 + 1) := PassLeft.update h rfl ..
    obtain ⟨t, ht, hsched, hleft, hmoves⟩ := hleft.coreStep
    exact ⟨t, ht, hsched, hleft, htaken.append (hmoves.turns [.core])⟩
  | host act =>
    have hleft : PassLeft { s with schedule := rest } (n + 1) := PassLeft.update h rfl ..
    have hreset : act ≠ .reset := by
      rintro rfl
      exact hturn
    have hturn' : Turn.harmless { s with schedule := rest } (.host act) := htaken.kept.operands.harmless hturn
    obtain ⟨t, ht⟩ := hostStep_answers (a := act) (s := { s with schedule := rest }) (by cases act <;> exact hmem)
    exact ⟨t, ht, hostStep_schedule ht, hleft.hostStep hreset ht,
      htaken.append (hostStep_passTurns ht (State.passRuns_iff.1 hleft.passRuns).1 hturn')⟩

/-- A turn within sample memory stays so while MEM_BYTES does not change. -/
theorem Turn.inMemory_congr {s t : State} (h : t.memLast = s.memLast) {turn : Turn} (ht : turn.inMemory s) :
    turn.inMemory t := by
  have hbytes : t.memBytes = s.memBytes := by rw [State.memBytes, h, State.memBytes]
  cases turn with
  | core => trivial
  | host act =>
    cases act with
    | memRead a => exact ht.trans_eq hbytes.symm
    | memWrite a v => exact ht.trans_eq hbytes.symm
    | _ => trivial

/-- Turns that keep the duties, in a PASS that has steps left after them. -/
theorem PassLeft.run_turns {s : State} {n : Nat} {turns rest : List Turn}
    (h : PassLeft s (n + 1 + turns.count .core)) (hs : s.schedule = turns ++ rest)
    (hturns : ∀ turn ∈ turns, turn.harmless s ∧ turn.inMemory s) :
    ∃ t, Machine.run turns.length s = .next t ∧ t.schedule = rest ∧ PassLeft t (n + 1) ∧ PassTurns turns s t := by
  induction turns generalizing s with
  | nil => exact ⟨s, rfl, hs, h, (PassMoves.refl s).turns []⟩
  | cons turn turns ih =>
    obtain ⟨hharm, hmem⟩ := hturns turn List.mem_cons_self
    have hsteps : n + 1 + (turn :: turns).count .core = n + turns.count .core + 1 + [turn].count .core := by
      rw [← List.singleton_append, List.count_append]
      omega
    obtain ⟨u, hu, hsched, hleft, hmoves⟩ := (hsteps ▸ h).step_turn hs hharm hmem
    rw [Nat.add_right_comm] at hleft
    obtain ⟨t, ht, htsched, htleft, htmoves⟩ := ih hleft hsched fun other ho =>
      let ⟨h1, h2⟩ := hturns other (List.mem_cons_of_mem _ ho)
      ⟨hmoves.kept.operands.harmless h1, Turn.inMemory_congr hmoves.memLast h2⟩
    exact ⟨t, (run_succ_of_next hu _).trans ht, htsched, htleft, hmoves.append htmoves⟩

/-! ## The indices processed -/

/-- The indices of a running PASS whose destination byte is written: their sample step is taken, or a drawn race has put
their output first (20_memory.md R54; log entry 5). -/
def State.processed (s : State) : List Nat :=
  (List.range (passSamples s)).filter fun idx => (destRace s (destAddress s idx)).isNone

theorem State.nodup_processed (s : State) : s.processed.Nodup := List.nodup_range.filter _

theorem State.mem_processed {s : State} {idx : Nat} :
    idx ∈ s.processed ↔ idx < passSamples s ∧ destRace s (destAddress s idx) = none := by
  simp [State.processed]

/-- Every index of a running PASS is unprocessed or processed, and both only where a race has put its output first. -/
theorem State.mem_processed_iff {s : State} (h : s.passRuns = true) {idx : Nat} :
    idx ∈ s.processed ↔
      idx < passSamples s ∧ (s.unprocessed idx = false ∨ s.ahead.lookup idx = some .written) := by
  rw [State.mem_processed, and_congr_right_iff]
  refine fun _ => ⟨fun hd => ?_, destRace_of_done⟩
  by_contra hdone
  obtain ⟨hu, hl⟩ := not_or.1 hdone
  simp [destRace_of_unprocessed h (by simpa using hu) hl] at hd

/-- Where no race has put an output first and TODO is not empty, the indices processed are those not in TODO. -/
theorem State.mem_processed_of_no_record {s : State} (h : s.passRuns = true) (hne : s.todo ≠ []) (ha : s.ahead = [])
    {idx : Nat} : idx ∈ s.processed ↔ idx < passSamples s ∧ idx ∉ s.todo := by
  rw [State.mem_processed_iff h, and_congr_right_iff]
  intro hi
  simp [ha, State.unprocessed, hi, hne]

/-- At least as many indices are processed as sample steps were taken (43_pass.md R98). -/
theorem PassLeft.le_length_processed {s : State} {n : Nat} (h : PassLeft s (n + 1)) :
    passSamples s - (n + 1) ≤ s.processed.length := by
  have hruns := h.passRuns
  cases h with
  | accepted => omega
  | running hr _ hlen =>
    have hsub : List.range (passSamples s) ⊆ s.processed ++ s.todo := fun idx hi => by
      by_cases hm : idx ∈ s.todo
      · exact List.mem_append_right _ hm
      · have hne : s.todo ≠ [] := List.ne_nil_of_length_eq_add_one hlen
        refine List.mem_append_left _ ((State.mem_processed_iff hruns).2 ⟨List.mem_range.1 hi, .inl ?_⟩)
        simp [State.unprocessed, hne, hm]
    have hle := (List.nodup_range.subperm hsub).length_le
    rw [List.length_range, List.length_append, hlen] at hle
    omega

/-- Where no race has put an output first, exactly as many. -/
theorem PassLeft.length_processed {s : State} {n : Nat} (h : PassLeft s (n + 1)) (ha : s.ahead = []) :
    s.processed.length = passSamples s - (n + 1) := by
  have hruns := h.passRuns
  have hge := h.le_length_processed
  cases h with
  | accepted _ _ _ ht =>
    have hnil : s.processed = [] := List.eq_nil_iff_forall_not_mem.2 fun idx hi => by
      obtain ⟨hlt, hdone⟩ := (State.mem_processed_iff hruns).1 hi
      simp [State.unprocessed, ht, ha, hlt] at hdone
    simp [hnil]
  | running hr _ hlen =>
    have hmem : ∀ {idx}, idx ∈ s.processed ↔ idx < passSamples s ∧ idx ∉ s.todo :=
      State.mem_processed_of_no_record hruns (List.ne_nil_of_length_eq_add_one hlen) ha
    have hnd : (s.processed ++ s.todo).Nodup := s.nodup_processed.append (hr.rising.imp Nat.ne_of_lt)
      fun idx hp ht => (hmem.1 hp).2 ht
    have hsub : s.processed ++ s.todo ⊆ List.range (passSamples s) := fun idx hi => by
      obtain hp | ht := List.mem_append.1 hi
      · exact List.mem_range.2 (hmem.1 hp).1
      · exact List.mem_range.2 (hr.below idx ht)
    have hle := (hnd.subperm hsub).length_le
    rw [List.length_range, List.length_append, hlen] at hle
    omega

/-! ## What the turns leave in sample memory -/

/-- Each destination byte is final where its index is processed, and as it was where it is not (R128). -/
theorem PassTurns.byteAt_dest {turns : List Turn} {s t : State} (h : PassTurns turns s t) (hacc : passAccepted s)
    (hc : passError s = none) (hturns : ∀ turn ∈ turns, turn.harmless s) {idx : Nat} (hi : idx < passSamples s) :
    t.byteAt (destAddress s idx) =
      if idx ∈ t.processed then outputFor s idx (s.byteAt (sourceAddress s idx))
      else s.byteAt (destAddress s idx) := by
  have hops := h.kept.operands
  have hS : passSamples t = passSamples s := passSamples_congr hops.width hops.height hops.channels
  have hdst : destAddress t idx = destAddress s idx := by rw [destAddress, hops.dstBase, destAddress]
  have hmem : idx ∈ t.processed ↔ destRace t (destAddress s idx) = none := by
    rw [State.mem_processed, hS, hdst, and_iff_right hi]
  cases hd : destRace t (destAddress s idx) with
  | none =>
    have hunwritten : ∀ v, Turn.host (.memWrite (destAddress s idx) v) ∉ turns := fun v hv =>
      (hturns _ hv).2 ⟨Nat.le_add_right _ _, Nat.add_lt_add_left hi _⟩
    rw [if_pos (hmem.2 hd)]
    refine byteAt_of_cell ((eventual_of_noRace hd).symm.trans ((h.kept.eventual _ hunwritten).trans ?_))
    exact hacc.eventual_dest hc hi
  | some j =>
    rw [if_neg (by simp [hmem, hd]), State.byteAt, Memory.readByte, (h.pending _ j hd).2]
    rfl

/-- Outside the destination range a byte is as it was, unless the host has written it (R128). -/
theorem PassTurns.byteAt_outside {turns : List Turn} {s t : State} (h : PassTurns turns s t) {a : Nat}
    (ha : ¬ inDest s a) (hunwritten : ∀ v, Turn.host (.memWrite a v) ∉ turns) : t.byteAt a = s.byteAt a := by
  have ha' : ¬ inDest t a := mt h.kept.operands.inDest_iff.1 ha
  have hcell := h.kept.eventual a hunwritten
  rw [eventual_of_noRace (destRace_eq_none (.inr (.inr (.inr ha)))),
    eventual_of_noRace (destRace_eq_none (.inr (.inr (.inr ha'))))] at hcell
  rw [State.byteAt, Memory.readByte, hcell]
  rfl

/-! ## The reset -/

/-- After reset every register reads 0 (10_state.md R40, R127). -/
theorem busRead_assertReset (off : BitVec 6) (s : State) : busRead .word off (assertReset s) = 0 := by
  cases hr : regAt off with
  | none => exact busRead_of_no_reg hr _
  | some r =>
    rw [busRead_of_regAt hr]
    cases r with
    | status => exact (by decide : Status.reset.word = 0)
    | order => exact (by decide : (0 : BitVec 5).setWidth 32 = 0)
    | _ => rfl

/-- A run that reaches a reset turn goes one step on to the reset state. -/
theorem run_succ_of_reset {s t : State} {n : Nat} (h : run n s = .next t) (hs : t.schedule = [.host .reset]) :
    run (n + 1) s = .next (assertReset { t with schedule := [] }) := by
  rw [run_add h, run_one]
  exact step_of_cons hs

/-- Settles O54: until the reset the turns keep what each byte ends as, and a byte still to be written as it was. -/
theorem resetDuringPassLeavesOldOrFinalBytes : Obligations.ResetDuringPassLeavesOldOrFinalBytes := by
  unfold Obligations.ResetDuringPassLeavesOldOrFinalBytes
  intro s turns k h hc hk hturns hcount hs
  have hsteps : passSamples s + 1 = passSamples s - turns.count .core + 1 + turns.count .core := by omega
  obtain ⟨u, hu, hsched, hleft, hkept⟩ := (hsteps ▸ PassLeft.of_accepted h hc).run_turns hs hturns
  have hops := hkept.kept.operands
  have hS : passSamples u = passSamples s := passSamples_congr hops.width hops.height hops.channels
  have htaken : passSamples u - (passSamples s - turns.count .core + 1) = turns.count .core - 1 := by omega
  refine ⟨_, u.processed, run_succ_of_reset hu hsched, u.nodup_processed,
    fun idx hi => (State.mem_processed.1 hi).1.trans_eq hS, htaken ▸ hleft.le_length_processed, fun hreads => ?_,
    fun x hx y hy c hcc => ?_, fun a ha hunwritten => hkept.byteAt_outside ha hunwritten,
    fun off => busRead_assertReset off _, rfl, rfl, rfl, rfl, rfl, hkept.errLog⟩
  · exact htaken ▸ hleft.length_processed (List.sublist_nil.1 (h.2.2.2 ▸ hkept.ahead hreads))
  · rw [← outputFor_sampleIndex hk hx hcc]
    exact hkept.byteAt_dest h hc (fun turn ht => (hturns turn ht).1) (sampleIndex_lt hx hy hcc)

/-! ## Any subset of the indices -/

/-- A core turn whose choice is the place of an index in TODO processes that index (43_pass.md R99). -/
theorem PassRunning.step_of_picked {s : State} {idx j : Nat} (h : PassRunning s)
    (hj : s.todo[j % s.todo.length]? = some idx) (hne : (storeSample idx s).todo ≠ []) {rest : List Turn}
    (hs : s.schedule = .core :: rest) (p : List Nat) :
    step { s with picks := j :: p } = .next { storeSample idx s with picks := p, schedule := rest } := by
  have hrunning : PassRunning { s with picks := j :: p, schedule := rest } := { h with }
  rw [step_of_cons (s := { s with picks := j :: p }) hs, takeTurn, hrunning.coreStep_of_chosen (idx := idx) hj]
  exact congrArg Host.Outcome.next (if_neg hne)

/-- There are choices with which the next sample steps process the indices of a list (R99). -/
theorem PassRunning.exists_picks_processing {s : State} {l : List Nat} {rest : List Turn} (h : PassRunning s)
    (hnd : l.Nodup) (hsub : ∀ idx ∈ l, idx ∈ s.todo) (hlen : l.length < s.todo.length)
    (hs : s.schedule = List.replicate l.length .core ++ rest) :
    ∃ p u, run l.length { s with picks := p } = .next u ∧ u.todo ≠ [] ∧
      ∀ idx, idx ∈ u.todo ↔ idx ∈ s.todo ∧ idx ∉ l := by
  induction l generalizing s with
  | nil => exact ⟨[], _, rfl, List.ne_nil_of_length_pos hlen, by simp⟩
  | cons i l ih =>
    obtain ⟨hil, hnd⟩ := List.nodup_cons.1 hnd
    have hi : i ∈ s.todo := hsub i List.mem_cons_self
    obtain ⟨j, hj, hget⟩ := List.getElem_of_mem hi
    have hlen' := h.length_todo_storeSample hi
    rw [List.length_cons] at hlen
    obtain ⟨p, u, hu, hne, hmem⟩ := ih (s := { storeSample i s with schedule := List.replicate l.length .core ++ rest })
      { h.storeSample i with } hnd
      (fun idx hidx => mem_todo_storeSample.2 ⟨hsub idx (List.mem_cons_of_mem _ hidx), fun h0 => hil (h0 ▸ hidx)⟩)
      (show l.length < (storeSample i s).todo.length by omega) rfl
    have hstep := h.step_of_picked (j := j) (by rw [Nat.mod_eq_of_lt hj, List.getElem?_eq_getElem hj, hget])
      (List.ne_nil_of_length_pos (by omega)) hs p
    refine ⟨j :: p, u, (run_succ_of_next hstep _).trans hu, hne, fun idx => ?_⟩
    rw [hmem, List.mem_cons, not_or, ← and_assoc]
    exact and_congr_left fun _ => mem_todo_storeSample

/-- There are choices with which the core steps of an accepted PASS before a reset process the indices of a list (R99).
-/
theorem passAccepted.exists_picks_processing {s : State} {l : List Nat} (h : passAccepted s) (hc : passError s = none)
    (hnd : l.Nodup) (hlt : ∀ idx ∈ l, idx < passSamples s) (hlen : l.length < passSamples s) :
    ∃ p u, run (l.length + 1) (racedPass s (l.length + 1) .reset p) = .next u ∧ u.schedule = [.host .reset] ∧
      PassMoves (racedPass s (l.length + 1) .reset p) u ∧ ∀ idx < passSamples s, idx ∈ u.processed ↔ idx ∈ l := by
  have hstart : PassRunning (passStart (racedPass s l.length .reset [])) := passRunning_passStart h.1 h.2.1 hc
  obtain ⟨p, u, hu, hne, hmem⟩ := hstart.exists_picks_processing hnd (fun idx hi => List.mem_range.2 (hlt idx hi))
    (hlen.trans_eq List.length_range.symm) rfl
  have htodo : ∀ idx, idx ∈ u.todo ↔ idx < passSamples s ∧ idx ∉ l :=
    fun idx => (hmem idx).trans (and_congr_left fun _ => List.mem_range)
  have hrun := (run_succ_of_next (h.step_racedPass hc l.length .reset p) _).trans hu
  obtain ⟨u', hu', hsched, hleft, hmoves⟩ :=
    (h.left_racedPass hc (Nat.succ_le_of_lt hlen) .reset p).run (by simp [racedPass])
  obtain rfl : u' = u := by simpa using hu'.symm.trans hrun
  refine ⟨p, u', hrun, by simpa [racedPass] using hsched, hmoves, fun idx hi => ?_⟩
  have hS : passSamples u' = passSamples s := hmoves.passSamples_eq
  rw [State.mem_processed_of_no_record hleft.passRuns hne (hmoves.ahead_eq_nil h.2.2.2), htodo, hS]
  simp [hi]

/-- Settles O55: the choices that process the indices given, in their order. -/
theorem resetMayFindAnySubsetProcessed : Obligations.ResetMayFindAnySubsetProcessed := by
  unfold Obligations.ResetMayFindAnySubsetProcessed
  intro s l h hc hnd hlt hlen
  obtain ⟨p, u, hrun, hsched, hmoves, hmem⟩ := h.exists_picks_processing hc hnd hlt hlen
  refine ⟨p, _, run_succ_of_reset hrun hsched, fun idx hi => ?_⟩
  have hfinal : sampleOutput { s with kReg := BitVec.ofNat 5 (findMSB s.width) } idx =
      outputFor s idx (s.byteAt (sourceAddress s idx)) := by
    rw [← sourceByte_of_no_record (by simp [h.2.2.2]), ← aheadOutput_eq hc, aheadOutput]
  have hbyte := (hmoves.turns []).byteAt_dest (s := racedPass s (l.length + 1) .reset p) h hc (by simp) hi
  simp only [hmem idx hi] at hbyte
  rw [hfinal]
  exact hbyte

end Sys2Proof.Machine
end

section
/-! The core's turn while BUSY = 0 (spec 10_state.md R39, 60_exceptions.md R125; log entry 7). -/

namespace Sys2Proof.Machine

/-- While BUSY = 0 the core has no step, and its turn changes nothing (60_exceptions.md R125). -/
theorem coreStep_of_idle {s : State} (hb : s.status.busy = false) : coreStep s = .next s := by
  rw [coreStep, if_neg (Bool.eq_false_iff.1 hb)]

/-- Settles O8: with an empty schedule or the core's turn at its head, the step is the idle core's. -/
theorem idleCoreChangesNothing : Obligations.IdleCoreChangesNothing := by
  unfold Obligations.IdleCoreChangesNothing
  intro s hb
  exact ⟨fun h => (step_of_nil h).trans (coreStep_of_idle hb),
    fun rest h => (step_of_cons h).trans (coreStep_of_idle hb)⟩

end Sys2Proof.Machine
end
